-- ==== Sys2Proof/Word.lean ====
section
/-! DEFINITION. The words of the machine: bytes, 128-bit values, command words and the fields of a command
word. -/

namespace Sys2Proof

/-- One byte of `BUF` or of an address (20_memory.md R60). -/
abbrev Byte := BitVec 8

/-- A `U128` value: an unsigned integer below `2^128`; a Ref is one too (10_state.md R20). -/
abbrev U128 := BitVec 128

/-- A command word (30_encoding.md R90). -/
abbrev CmdWord := BitVec 32

/-- An index into the `x` file (30_encoding.md R93). -/
abbrev XReg := BitVec 4

/-- An index into the `a` file. -/
abbrev AReg := BitVec 4

/-- An index into the `p` file. -/
abbrev PReg := BitVec 4

/-- An index into the `q` file. -/
abbrev QReg := BitVec 4

/-- A control register number (10_state.md R33). -/
abbrev Csr := BitVec 4

/-- An `imm8` field (30_encoding.md R94). -/
abbrev Imm8 := BitVec 8

/-- An `imm16` field (30_encoding.md R94). -/
abbrev Imm16 := BitVec 16

end Sys2Proof
end

