-- ==== Sys2Proof/Syntax.lean ====
section
/-! DEFINITION. The command set: one constructor per row of the opcode table (30_encoding.md rule R97), its
arguments the fields the row uses, in the order `rd`, `rs1`, `rs2`, `rs3`, immediate. -/

namespace Sys2Proof

/-- A command of the IPREF-CORE command set, version 1.0. An argument is the field of the command word; which
file it indexes is in its type's name. -/
inductive Instr where
  /-- `NOP`, opcode 0x00 (46_system.md R350). -/
  | nop
  /-- `LI xd, #imm16`, opcode 0x01 (46_system.md R351). -/
  | li (rd : XReg) (imm : Imm16)
  /-- `MOV xd, xs1`, opcode 0x02 (46_system.md R356). -/
  | mov (rd : XReg) (rs1 : XReg)
  /-- `CSRR xd, csr`, opcode 0x03 (46_system.md R352). -/
  | csrr (rd : XReg) (csr : Csr)
  /-- `CSRWI csr, #imm16`, opcode 0x04 (46_system.md R353). -/
  | csrwi (csr : Csr) (imm : Imm16)
  /-- `CLC`, opcode 0x05 (46_system.md R354). -/
  | clc
  /-- `STC`, opcode 0x06 (46_system.md R355). -/
  | stc
  /-- `ADD xd, xs1, xs2`, opcode 0x10 (40_uint128_alu.md R125). -/
  | add (rd : XReg) (rs1 : XReg) (rs2 : XReg)
  /-- `ADDC xd, xs1, xs2`, opcode 0x11 (40_uint128_alu.md R126). -/
  | addc (rd : XReg) (rs1 : XReg) (rs2 : XReg)
  /-- `SUB xd, xs1, xs2`, opcode 0x12 (40_uint128_alu.md R127). -/
  | sub (rd : XReg) (rs1 : XReg) (rs2 : XReg)
  /-- `SUBB xd, xs1, xs2`, opcode 0x13 (40_uint128_alu.md R128). -/
  | subb (rd : XReg) (rs1 : XReg) (rs2 : XReg)
  /-- `MUL xd, xs1, xs2`, opcode 0x14 (40_uint128_alu.md R129). -/
  | mul (rd : XReg) (rs1 : XReg) (rs2 : XReg)
  /-- `AND xd, xs1, xs2`, opcode 0x15 (40_uint128_alu.md R130). -/
  | and (rd : XReg) (rs1 : XReg) (rs2 : XReg)
  /-- `OR xd, xs1, xs2`, opcode 0x16 (40_uint128_alu.md R131). -/
  | or (rd : XReg) (rs1 : XReg) (rs2 : XReg)
  /-- `XOR xd, xs1, xs2`, opcode 0x17 (40_uint128_alu.md R132). -/
  | xor (rd : XReg) (rs1 : XReg) (rs2 : XReg)
  /-- `ANDN xd, xs1, xs2`, opcode 0x18 (40_uint128_alu.md R133). -/
  | andn (rd : XReg) (rs1 : XReg) (rs2 : XReg)
  /-- `NOT xd, xs1`, opcode 0x19 (40_uint128_alu.md R134). -/
  | not (rd : XReg) (rs1 : XReg)
  /-- `LSHI xd, xs1, #n`, opcode 0x1A (40_uint128_alu.md R135). -/
  | lshi (rd : XReg) (rs1 : XReg) (n : Imm8)
  /-- `RSHI xd, xs1, #n`, opcode 0x1B (40_uint128_alu.md R136). -/
  | rshi (rd : XReg) (rs1 : XReg) (n : Imm8)
  /-- `LSH xd, xs1, xs2`, opcode 0x1C (40_uint128_alu.md R137). -/
  | lsh (rd : XReg) (rs1 : XReg) (rs2 : XReg)
  /-- `RSH xd, xs1, xs2`, opcode 0x1D (40_uint128_alu.md R138). -/
  | rsh (rd : XReg) (rs1 : XReg) (rs2 : XReg)
  /-- `CMP xs1, xs2`, opcode 0x1E (40_uint128_alu.md R139). -/
  | cmp (rs1 : XReg) (rs2 : XReg)
  /-- `CLZ xd, xs1`, opcode 0x1F (40_uint128_alu.md R140). -/
  | clz (rd : XReg) (rs1 : XReg)
  /-- `CTZ xd, xs1`, opcode 0x20 (40_uint128_alu.md R141). -/
  | ctz (rd : XReg) (rs1 : XReg)
  /-- `POPCNT xd, xs1`, opcode 0x21 (40_uint128_alu.md R142). -/
  | popcnt (rd : XReg) (rs1 : XReg)
  /-- `BITLEN xd, xs1`, opcode 0x22 (40_uint128_alu.md R143). -/
  | bitlen (rd : XReg) (rs1 : XReg)
  /-- `BIT xs1, #n`, opcode 0x23 (40_uint128_alu.md R144). -/
  | bit (rs1 : XReg) (n : Imm8)
  /-- `CVT xd, xs1, #w`, opcode 0x24 (40_uint128_alu.md R145). -/
  | cvt (rd : XReg) (rs1 : XReg) (w : Imm8)
  /-- `TRUNC xd, xs1, #w`, opcode 0x25 (40_uint128_alu.md R146). -/
  | trunc (rd : XReg) (rs1 : XReg) (w : Imm8)
  /-- `LDBE xd, #off`, opcode 0x30 (41_endian.md R181). -/
  | ldbe (rd : XReg) (off : Imm8)
  /-- `LDLE xd, #off`, opcode 0x31 (41_endian.md R182). -/
  | ldle (rd : XReg) (off : Imm8)
  /-- `STBE xs1, #off`, opcode 0x32 (41_endian.md R183). -/
  | stbe (rs1 : XReg) (off : Imm8)
  /-- `STLE xs1, #off`, opcode 0x33 (41_endian.md R184). -/
  | stle (rs1 : XReg) (off : Imm8)
  /-- `BSWAP xd, xs1`, opcode 0x34 (41_endian.md R185). -/
  | bswap (rd : XReg) (rs1 : XReg)
  /-- `ALD4 ad, #off`, opcode 0x40 (42_ip_value.md R205). -/
  | ald4 (rd : AReg) (off : Imm8)
  /-- `ALD16 ad, #off`, opcode 0x41 (42_ip_value.md R206). -/
  | ald16 (rd : AReg) (off : Imm8)
  /-- `AST4 as1, #off`, opcode 0x42 (42_ip_value.md R207). -/
  | ast4 (rs1 : AReg) (off : Imm8)
  /-- `AST16 as1, #off`, opcode 0x43 (42_ip_value.md R208). -/
  | ast16 (rs1 : AReg) (off : Imm8)
  /-- `AFROMU32 ad, xs1`, opcode 0x44 (42_ip_value.md R209). -/
  | afromu32 (rd : AReg) (rs1 : XReg)
  /-- `AFROMU128 ad, xs1`, opcode 0x45 (42_ip_value.md R210). -/
  | afromu128 (rd : AReg) (rs1 : XReg)
  /-- `ATOU32 xd, as1`, opcode 0x46 (42_ip_value.md R211). -/
  | atou32 (rd : XReg) (rs1 : AReg)
  /-- `ATOU128 xd, as1`, opcode 0x47 (42_ip_value.md R212). -/
  | atou128 (rd : XReg) (rs1 : AReg)
  /-- `ATOU128C xd, as1`, opcode 0x48 (42_ip_value.md R213). -/
  | atou128c (rd : XReg) (rs1 : AReg)
  /-- `IS4 as1`, opcode 0x49 (42_ip_value.md R214). -/
  | is4 (rs1 : AReg)
  /-- `IS6 as1`, opcode 0x4A (42_ip_value.md R215). -/
  | is6 (rs1 : AReg)
  /-- `IS4IN6 as1`, opcode 0x4B (42_ip_value.md R216). -/
  | is4in6 (rs1 : AReg)
  /-- `AS4IN6 ad, as1`, opcode 0x4C (42_ip_value.md R217). -/
  | as4in6 (rd : AReg) (rs1 : AReg)
  /-- `UN4IN6 ad, as1`, opcode 0x4D (42_ip_value.md R218). -/
  | un4in6 (rd : AReg) (rs1 : AReg)
  /-- `AOR ad, as1, as2`, opcode 0x4E (42_ip_value.md R219). -/
  | aor (rd : AReg) (rs1 : AReg) (rs2 : AReg)
  /-- `AAND ad, as1, as2`, opcode 0x4F (42_ip_value.md R220). -/
  | aand (rd : AReg) (rs1 : AReg) (rs2 : AReg)
  /-- `AXOR ad, as1, as2`, opcode 0x50 (42_ip_value.md R221). -/
  | axor (rd : AReg) (rs1 : AReg) (rs2 : AReg)
  /-- `ANOT ad, as1`, opcode 0x51 (42_ip_value.md R222). -/
  | anot (rd : AReg) (rs1 : AReg)
  /-- `AADD ad, as1, as2`, opcode 0x52 (42_ip_value.md R223). -/
  | aadd (rd : AReg) (rs1 : AReg) (rs2 : AReg)
  /-- `ACMP as1, as2`, opcode 0x53 (42_ip_value.md R224). -/
  | acmp (rs1 : AReg) (rs2 : AReg)
  /-- `ABYTE xd, as1, #i`, opcode 0x54 (42_ip_value.md R225). -/
  | abyte (rd : XReg) (rs1 : AReg) (idx : Imm8)
  /-- `ABITS4 ad, #n`, opcode 0x55 (42_ip_value.md R226). -/
  | abits4 (rd : AReg) (n : Imm8)
  /-- `ABITS16 ad, #n`, opcode 0x56 (42_ip_value.md R227). -/
  | abits16 (rd : AReg) (n : Imm8)
  /-- `ANUM4 ad, xs1`, opcode 0x57 (42_ip_value.md R228). -/
  | anum4 (rd : AReg) (rs1 : XReg)
  /-- `ANUM16 ad, xs1`, opcode 0x58 (42_ip_value.md R229). -/
  | anum16 (rd : AReg) (rs1 : XReg)
  /-- `AZERO4 ad`, opcode 0x59 (42_ip_value.md R230). -/
  | azero4 (rd : AReg)
  /-- `AZERO16 ad`, opcode 0x5A (42_ip_value.md R231). -/
  | azero16 (rd : AReg)
  /-- `AMOV ad, as1`, opcode 0x5B (42_ip_value.md R232). -/
  | amov (rd : AReg) (rs1 : AReg)
  /-- `IPPFX pd, as1, #bits`, opcode 0x60 (43_prefix.md R261). -/
  | ippfx (rd : PReg) (rs1 : AReg) (bits : Imm8)
  /-- `IPPADDR ad, ps1`, opcode 0x61 (43_prefix.md R262). -/
  | ippaddr (rd : AReg) (rs1 : PReg)
  /-- `IPPBITS xd, ps1`, opcode 0x62 (43_prefix.md R263). -/
  | ippbits (rd : XReg) (rs1 : PReg)
  /-- `IPCONT ps1, as2`, opcode 0x63 (43_prefix.md R264). -/
  | ipcont (rs1 : PReg) (rs2 : AReg)
  /-- `IPCONTL as1, #mask16`, opcode 0x64 (43_prefix.md R265). -/
  | ipcontl (rs1 : AReg) (mask : Imm16)
  /-- `RPFX qd, xs1, #bits`, opcode 0x65 (43_prefix.md R270). -/
  | rpfx (rd : QReg) (rs1 : XReg) (bits : Imm8)
  /-- `RPREF xd, qs1`, opcode 0x66 (43_prefix.md R271). -/
  | rpref (rd : XReg) (rs1 : QReg)
  /-- `RPBITS xd, qs1`, opcode 0x67 (43_prefix.md R272). -/
  | rpbits (rd : XReg) (rs1 : QReg)
  /-- `RPCONT qs1, xs2`, opcode 0x68 (43_prefix.md R273). -/
  | rpcont (rs1 : QReg) (rs2 : XReg)
  /-- `RPCONTL xs1, #mask16`, opcode 0x69 (43_prefix.md R274). -/
  | rpcontl (rs1 : XReg) (mask : Imm16)
  /-- `SUBINIT ps1, #l`, opcode 0x70 (44_subnets.md R292). -/
  | subinit (rs1 : PReg) (l : Imm8)
  /-- `SUBNEXT pd`, opcode 0x71 (44_subnets.md R293). -/
  | subnext (rd : PReg)
  /-- `ELEN xd, #fmt`, opcode 0x80 (45_addrrec_codec.md R322). -/
  | elen (rd : XReg) (fmt : Imm8)
  /-- `ELENOF xd, as1, as3, #fmt`, opcode 0x81 (45_addrrec_codec.md R323). -/
  | elenof (rd : XReg) (rs1 : AReg) (rs3 : AReg) (fmt : Imm8)
  /-- `ENC.LEG xd, as1, as2, as3, #off`, opcode 0x82 (45_addrrec_codec.md R314). -/
  | encLeg (rd : XReg) (rs1 : AReg) (rs2 : AReg) (rs3 : AReg) (off : Imm8)
  /-- `DEC.LEG xd, as1, as2, as3, #off`, opcode 0x83 (45_addrrec_codec.md R315). -/
  | decLeg (rd : XReg) (rs1 : AReg) (rs2 : AReg) (rs3 : AReg) (off : Imm8)
  /-- `ENC.CUR xd, as1, as2, as3, #off`, opcode 0x84 (45_addrrec_codec.md R319). -/
  | encCur (rd : XReg) (rs1 : AReg) (rs2 : AReg) (rs3 : AReg) (off : Imm8)
  /-- `CHK.CUR #off`, opcode 0x85 (45_addrrec_codec.md R320). -/
  | chkCur (off : Imm8)
  /-- `DEC.CUR xd, as1, as2, as3, #off`, opcode 0x86 (45_addrrec_codec.md R321). -/
  | decCur (rd : XReg) (rs1 : AReg) (rs2 : AReg) (rs3 : AReg) (off : Imm8)
  deriving DecidableEq, Repr

end Sys2Proof
end

