-- ==== Sys2Proof/WellFormed.lean ====
section
/-! DEFINITION. Which terms of `Instr` are commands: those whose immediate is in the encodable set of
30_encoding.md rule R94. Every register field is legal at every value (R93). -/

namespace Sys2Proof

/-- The immediate of the command is one that can be encoded (30_encoding.md R94): a shift amount or bit index
below 128, a target width of 8, 16, 32 or 64, a format selector of 0 or 1. Every other immediate takes all of
its field's values. -/
def Instr.wf : Instr → Bool
  | .lshi _ _ n | .rshi _ _ n | .bit _ n => decide (n.toNat < 128)
  | .cvt _ _ w | .trunc _ _ w => decide (w.toNat ∈ [8, 16, 32, 64])
  | .elen _ fmt | .elenof _ _ _ fmt => decide (fmt.toNat < 2)
  | _ => true

end Sys2Proof
end

