-- ==== Sys2Proof/Decode.lean ====
section
/-! DEFINITION. The decoder: a total function from 32-bit words to a command or one of three named reasons
(30_encoding.md rules R91 to R98). After it the encoder, from the same table, and `decodeTableWord` for the
opcode table's numbering. -/

namespace Sys2Proof

/-- Why a word is no command, in the order the decoder looks (30_encoding.md R98). Each raises
`IllegalCommand` when the word is presented (60_exceptions.md R371). -/
inductive DecodeError where
  /-- Step (1): the opcode is not in the table of R97 (R96). -/
  | unassignedOpcode
  /-- Step (2): a field the table shows as `0` is not zero (R95). -/
  | reservedField
  /-- Step (3): the immediate is outside the encodable set of R94. -/
  | illegalImmediate
  deriving DecidableEq, Repr

/-- The six fields of format R (30_encoding.md R91). Format I's `imm16` is the last three together (R92). -/
structure Fields where
  op : BitVec 8
  rd : BitVec 4 := 0
  rs1 : BitVec 4 := 0
  rs2 : BitVec 4 := 0
  rs3 : BitVec 4 := 0
  imm8 : BitVec 8 := 0
  deriving DecidableEq, Repr

/-- Bits 15:0 of the word (30_encoding.md R92). -/
def Fields.imm16 (f : Fields) : BitVec 16 := f.rs2 ++ f.rs3 ++ f.imm8

/-- The fields of a word whose format is I (30_encoding.md R92). -/
def formatI (op : BitVec 8) (rd rs1 : BitVec 4) (imm16 : BitVec 16) : Fields :=
  { op := op, rd := rd, rs1 := rs1, rs2 := imm16.extractLsb' 12 4, rs3 := imm16.extractLsb' 8 4,
    imm8 := imm16.extractLsb' 0 8 }

/-- A command word cut into its fields (30_encoding.md R91). -/
def fieldsOf (w : CmdWord) : Fields :=
  { op := w.extractLsb' 24 8, rd := w.extractLsb' 20 4, rs1 := w.extractLsb' 16 4, rs2 := w.extractLsb' 12 4,
    rs3 := w.extractLsb' 8 4, imm8 := w.extractLsb' 0 8 }

/-- `op << 24 | rd << 20 | rs1 << 16 | rs2 << 12 | rs3 << 8 | imm8` (30_encoding.md R91). -/
def wordOf (f : Fields) : CmdWord := f.op ++ f.rd ++ f.rs1 ++ f.rs2 ++ f.rs3 ++ f.imm8

/-- A shift amount or bit index that can be encoded: 0 to 127 (30_encoding.md R94). -/
def legalShift (n : Imm8) : Bool := n.toNat < 128

/-- A target width that can be encoded: 8, 16, 32 or 64 (30_encoding.md R94). -/
def legalWidth (w : Imm8) : Bool := w == 8 || w == 16 || w == 32 || w == 64

/-- A format selector that can be encoded: 0 legacy, 1 current (30_encoding.md R94). -/
def legalFormat (fmt : Imm8) : Bool := fmt == 0 || fmt == 1

/-- Steps (2) and (3) of R98 for one row of the table: its reserved fields, then its immediate. -/
def accept (reservedZero immLegal : Bool) (i : Instr) : Except DecodeError Instr :=
  if reservedZero then if immLegal then .ok i else .error .illegalImmediate else .error .reservedField

/-- The opcode table of 30_encoding.md rule R97, row by row: the fields the row shows as `0`, whether the
immediate is legal, and the command. -/
def decodeFields (f : Fields) : Except DecodeError Instr :=
  match f.op with
  | 0x00#8 => accept (f.rd == 0 && f.rs1 == 0 && f.rs2 == 0 && f.rs3 == 0 && f.imm8 == 0) true .nop
  | 0x01#8 => accept (f.rs1 == 0) true (.li f.rd f.imm16)
  | 0x02#8 => accept (f.rs2 == 0 && f.rs3 == 0 && f.imm8 == 0) true (.mov f.rd f.rs1)
  | 0x03#8 => accept (f.imm16 == 0) true (.csrr f.rd f.rs1)
  | 0x04#8 => accept (f.rs1 == 0) true (.csrwi f.rd f.imm16)
  | 0x05#8 => accept (f.rd == 0 && f.rs1 == 0 && f.rs2 == 0 && f.rs3 == 0 && f.imm8 == 0) true .clc
  | 0x06#8 => accept (f.rd == 0 && f.rs1 == 0 && f.rs2 == 0 && f.rs3 == 0 && f.imm8 == 0) true .stc
  | 0x10#8 => accept (f.rs3 == 0 && f.imm8 == 0) true (.add f.rd f.rs1 f.rs2)
  | 0x11#8 => accept (f.rs3 == 0 && f.imm8 == 0) true (.addc f.rd f.rs1 f.rs2)
  | 0x12#8 => accept (f.rs3 == 0 && f.imm8 == 0) true (.sub f.rd f.rs1 f.rs2)
  | 0x13#8 => accept (f.rs3 == 0 && f.imm8 == 0) true (.subb f.rd f.rs1 f.rs2)
  | 0x14#8 => accept (f.rs3 == 0 && f.imm8 == 0) true (.mul f.rd f.rs1 f.rs2)
  | 0x15#8 => accept (f.rs3 == 0 && f.imm8 == 0) true (.and f.rd f.rs1 f.rs2)
  | 0x16#8 => accept (f.rs3 == 0 && f.imm8 == 0) true (.or f.rd f.rs1 f.rs2)
  | 0x17#8 => accept (f.rs3 == 0 && f.imm8 == 0) true (.xor f.rd f.rs1 f.rs2)
  | 0x18#8 => accept (f.rs3 == 0 && f.imm8 == 0) true (.andn f.rd f.rs1 f.rs2)
  | 0x19#8 => accept (f.rs2 == 0 && f.rs3 == 0 && f.imm8 == 0) true (.not f.rd f.rs1)
  | 0x1a#8 => accept (f.rs2 == 0 && f.rs3 == 0) (legalShift f.imm8) (.lshi f.rd f.rs1 f.imm8)
  | 0x1b#8 => accept (f.rs2 == 0 && f.rs3 == 0) (legalShift f.imm8) (.rshi f.rd f.rs1 f.imm8)
  | 0x1c#8 => accept (f.rs3 == 0 && f.imm8 == 0) true (.lsh f.rd f.rs1 f.rs2)
  | 0x1d#8 => accept (f.rs3 == 0 && f.imm8 == 0) true (.rsh f.rd f.rs1 f.rs2)
  | 0x1e#8 => accept (f.rd == 0 && f.rs3 == 0 && f.imm8 == 0) true (.cmp f.rs1 f.rs2)
  | 0x1f#8 => accept (f.rs2 == 0 && f.rs3 == 0 && f.imm8 == 0) true (.clz f.rd f.rs1)
  | 0x20#8 => accept (f.rs2 == 0 && f.rs3 == 0 && f.imm8 == 0) true (.ctz f.rd f.rs1)
  | 0x21#8 => accept (f.rs2 == 0 && f.rs3 == 0 && f.imm8 == 0) true (.popcnt f.rd f.rs1)
  | 0x22#8 => accept (f.rs2 == 0 && f.rs3 == 0 && f.imm8 == 0) true (.bitlen f.rd f.rs1)
  | 0x23#8 => accept (f.rd == 0 && f.rs2 == 0 && f.rs3 == 0) (legalShift f.imm8) (.bit f.rs1 f.imm8)
  | 0x24#8 => accept (f.rs2 == 0 && f.rs3 == 0) (legalWidth f.imm8) (.cvt f.rd f.rs1 f.imm8)
  | 0x25#8 => accept (f.rs2 == 0 && f.rs3 == 0) (legalWidth f.imm8) (.trunc f.rd f.rs1 f.imm8)
  | 0x30#8 => accept (f.rs1 == 0 && f.rs2 == 0 && f.rs3 == 0) true (.ldbe f.rd f.imm8)
  | 0x31#8 => accept (f.rs1 == 0 && f.rs2 == 0 && f.rs3 == 0) true (.ldle f.rd f.imm8)
  | 0x32#8 => accept (f.rd == 0 && f.rs2 == 0 && f.rs3 == 0) true (.stbe f.rs1 f.imm8)
  | 0x33#8 => accept (f.rd == 0 && f.rs2 == 0 && f.rs3 == 0) true (.stle f.rs1 f.imm8)
  | 0x34#8 => accept (f.rs2 == 0 && f.rs3 == 0 && f.imm8 == 0) true (.bswap f.rd f.rs1)
  | 0x40#8 => accept (f.rs1 == 0 && f.rs2 == 0 && f.rs3 == 0) true (.ald4 f.rd f.imm8)
  | 0x41#8 => accept (f.rs1 == 0 && f.rs2 == 0 && f.rs3 == 0) true (.ald16 f.rd f.imm8)
  | 0x42#8 => accept (f.rd == 0 && f.rs2 == 0 && f.rs3 == 0) true (.ast4 f.rs1 f.imm8)
  | 0x43#8 => accept (f.rd == 0 && f.rs2 == 0 && f.rs3 == 0) true (.ast16 f.rs1 f.imm8)
  | 0x44#8 => accept (f.rs2 == 0 && f.rs3 == 0 && f.imm8 == 0) true (.afromu32 f.rd f.rs1)
  | 0x45#8 => accept (f.rs2 == 0 && f.rs3 == 0 && f.imm8 == 0) true (.afromu128 f.rd f.rs1)
  | 0x46#8 => accept (f.rs2 == 0 && f.rs3 == 0 && f.imm8 == 0) true (.atou32 f.rd f.rs1)
  | 0x47#8 => accept (f.rs2 == 0 && f.rs3 == 0 && f.imm8 == 0) true (.atou128 f.rd f.rs1)
  | 0x48#8 => accept (f.rs2 == 0 && f.rs3 == 0 && f.imm8 == 0) true (.atou128c f.rd f.rs1)
  | 0x49#8 => accept (f.rd == 0 && f.rs2 == 0 && f.rs3 == 0 && f.imm8 == 0) true (.is4 f.rs1)
  | 0x4a#8 => accept (f.rd == 0 && f.rs2 == 0 && f.rs3 == 0 && f.imm8 == 0) true (.is6 f.rs1)
  | 0x4b#8 => accept (f.rd == 0 && f.rs2 == 0 && f.rs3 == 0 && f.imm8 == 0) true (.is4in6 f.rs1)
  | 0x4c#8 => accept (f.rs2 == 0 && f.rs3 == 0 && f.imm8 == 0) true (.as4in6 f.rd f.rs1)
  | 0x4d#8 => accept (f.rs2 == 0 && f.rs3 == 0 && f.imm8 == 0) true (.un4in6 f.rd f.rs1)
  | 0x4e#8 => accept (f.rs3 == 0 && f.imm8 == 0) true (.aor f.rd f.rs1 f.rs2)
  | 0x4f#8 => accept (f.rs3 == 0 && f.imm8 == 0) true (.aand f.rd f.rs1 f.rs2)
  | 0x50#8 => accept (f.rs3 == 0 && f.imm8 == 0) true (.axor f.rd f.rs1 f.rs2)
  | 0x51#8 => accept (f.rs2 == 0 && f.rs3 == 0 && f.imm8 == 0) true (.anot f.rd f.rs1)
  | 0x52#8 => accept (f.rs3 == 0 && f.imm8 == 0) true (.aadd f.rd f.rs1 f.rs2)
  | 0x53#8 => accept (f.rd == 0 && f.rs3 == 0 && f.imm8 == 0) true (.acmp f.rs1 f.rs2)
  | 0x54#8 => accept (f.rs2 == 0 && f.rs3 == 0) true (.abyte f.rd f.rs1 f.imm8)
  | 0x55#8 => accept (f.rs1 == 0 && f.rs2 == 0 && f.rs3 == 0) true (.abits4 f.rd f.imm8)
  | 0x56#8 => accept (f.rs1 == 0 && f.rs2 == 0 && f.rs3 == 0) true (.abits16 f.rd f.imm8)
  | 0x57#8 => accept (f.rs2 == 0 && f.rs3 == 0 && f.imm8 == 0) true (.anum4 f.rd f.rs1)
  | 0x58#8 => accept (f.rs2 == 0 && f.rs3 == 0 && f.imm8 == 0) true (.anum16 f.rd f.rs1)
  | 0x59#8 => accept (f.rs1 == 0 && f.rs2 == 0 && f.rs3 == 0 && f.imm8 == 0) true (.azero4 f.rd)
  | 0x5a#8 => accept (f.rs1 == 0 && f.rs2 == 0 && f.rs3 == 0 && f.imm8 == 0) true (.azero16 f.rd)
  | 0x5b#8 => accept (f.rs2 == 0 && f.rs3 == 0 && f.imm8 == 0) true (.amov f.rd f.rs1)
  | 0x60#8 => accept (f.rs2 == 0 && f.rs3 == 0) true (.ippfx f.rd f.rs1 f.imm8)
  | 0x61#8 => accept (f.rs2 == 0 && f.rs3 == 0 && f.imm8 == 0) true (.ippaddr f.rd f.rs1)
  | 0x62#8 => accept (f.rs2 == 0 && f.rs3 == 0 && f.imm8 == 0) true (.ippbits f.rd f.rs1)
  | 0x63#8 => accept (f.rd == 0 && f.rs3 == 0 && f.imm8 == 0) true (.ipcont f.rs1 f.rs2)
  | 0x64#8 => accept (f.rd == 0) true (.ipcontl f.rs1 f.imm16)
  | 0x65#8 => accept (f.rs2 == 0 && f.rs3 == 0) true (.rpfx f.rd f.rs1 f.imm8)
  | 0x66#8 => accept (f.rs2 == 0 && f.rs3 == 0 && f.imm8 == 0) true (.rpref f.rd f.rs1)
  | 0x67#8 => accept (f.rs2 == 0 && f.rs3 == 0 && f.imm8 == 0) true (.rpbits f.rd f.rs1)
  | 0x68#8 => accept (f.rd == 0 && f.rs3 == 0 && f.imm8 == 0) true (.rpcont f.rs1 f.rs2)
  | 0x69#8 => accept (f.rd == 0) true (.rpcontl f.rs1 f.imm16)
  | 0x70#8 => accept (f.rd == 0 && f.rs2 == 0 && f.rs3 == 0) true (.subinit f.rs1 f.imm8)
  | 0x71#8 => accept (f.rs1 == 0 && f.rs2 == 0 && f.rs3 == 0 && f.imm8 == 0) true (.subnext f.rd)
  | 0x80#8 => accept (f.rs1 == 0 && f.rs2 == 0 && f.rs3 == 0) (legalFormat f.imm8) (.elen f.rd f.imm8)
  | 0x81#8 => accept (f.rs2 == 0) (legalFormat f.imm8) (.elenof f.rd f.rs1 f.rs3 f.imm8)
  | 0x82#8 => accept true true (.encLeg f.rd f.rs1 f.rs2 f.rs3 f.imm8)
  | 0x83#8 => accept true true (.decLeg f.rd f.rs1 f.rs2 f.rs3 f.imm8)
  | 0x84#8 => accept true true (.encCur f.rd f.rs1 f.rs2 f.rs3 f.imm8)
  | 0x85#8 => accept (f.rd == 0 && f.rs1 == 0 && f.rs2 == 0 && f.rs3 == 0) true (.chkCur f.imm8)
  | 0x86#8 => accept true true (.decCur f.rd f.rs1 f.rs2 f.rs3 f.imm8)
  | _ => .error .unassignedOpcode

/-- The decoder (30_encoding.md R98): it depends on the word alone. -/
def decode (w : CmdWord) : Except DecodeError Instr := decodeFields (fieldsOf w)

/-- The fields of a command, from the same rows of R97. -/
def encodeFields : Instr → Fields
  | .nop => { op := 0x00 }
  | .li rd imm => formatI 0x01 rd 0 imm
  | .mov rd rs1 => { op := 0x02, rd := rd, rs1 := rs1 }
  | .csrr rd csr => formatI 0x03 rd csr 0
  | .csrwi csr imm => formatI 0x04 csr 0 imm
  | .clc => { op := 0x05 }
  | .stc => { op := 0x06 }
  | .add rd rs1 rs2 => { op := 0x10, rd := rd, rs1 := rs1, rs2 := rs2 }
  | .addc rd rs1 rs2 => { op := 0x11, rd := rd, rs1 := rs1, rs2 := rs2 }
  | .sub rd rs1 rs2 => { op := 0x12, rd := rd, rs1 := rs1, rs2 := rs2 }
  | .subb rd rs1 rs2 => { op := 0x13, rd := rd, rs1 := rs1, rs2 := rs2 }
  | .mul rd rs1 rs2 => { op := 0x14, rd := rd, rs1 := rs1, rs2 := rs2 }
  | .and rd rs1 rs2 => { op := 0x15, rd := rd, rs1 := rs1, rs2 := rs2 }
  | .or rd rs1 rs2 => { op := 0x16, rd := rd, rs1 := rs1, rs2 := rs2 }
  | .xor rd rs1 rs2 => { op := 0x17, rd := rd, rs1 := rs1, rs2 := rs2 }
  | .andn rd rs1 rs2 => { op := 0x18, rd := rd, rs1 := rs1, rs2 := rs2 }
  | .not rd rs1 => { op := 0x19, rd := rd, rs1 := rs1 }
  | .lshi rd rs1 n => { op := 0x1a, rd := rd, rs1 := rs1, imm8 := n }
  | .rshi rd rs1 n => { op := 0x1b, rd := rd, rs1 := rs1, imm8 := n }
  | .lsh rd rs1 rs2 => { op := 0x1c, rd := rd, rs1 := rs1, rs2 := rs2 }
  | .rsh rd rs1 rs2 => { op := 0x1d, rd := rd, rs1 := rs1, rs2 := rs2 }
  | .cmp rs1 rs2 => { op := 0x1e, rs1 := rs1, rs2 := rs2 }
  | .clz rd rs1 => { op := 0x1f, rd := rd, rs1 := rs1 }
  | .ctz rd rs1 => { op := 0x20, rd := rd, rs1 := rs1 }
  | .popcnt rd rs1 => { op := 0x21, rd := rd, rs1 := rs1 }
  | .bitlen rd rs1 => { op := 0x22, rd := rd, rs1 := rs1 }
  | .bit rs1 n => { op := 0x23, rs1 := rs1, imm8 := n }
  | .cvt rd rs1 w => { op := 0x24, rd := rd, rs1 := rs1, imm8 := w }
  | .trunc rd rs1 w => { op := 0x25, rd := rd, rs1 := rs1, imm8 := w }
  | .ldbe rd off => { op := 0x30, rd := rd, imm8 := off }
  | .ldle rd off => { op := 0x31, rd := rd, imm8 := off }
  | .stbe rs1 off => { op := 0x32, rs1 := rs1, imm8 := off }
  | .stle rs1 off => { op := 0x33, rs1 := rs1, imm8 := off }
  | .bswap rd rs1 => { op := 0x34, rd := rd, rs1 := rs1 }
  | .ald4 rd off => { op := 0x40, rd := rd, imm8 := off }
  | .ald16 rd off => { op := 0x41, rd := rd, imm8 := off }
  | .ast4 rs1 off => { op := 0x42, rs1 := rs1, imm8 := off }
  | .ast16 rs1 off => { op := 0x43, rs1 := rs1, imm8 := off }
  | .afromu32 rd rs1 => { op := 0x44, rd := rd, rs1 := rs1 }
  | .afromu128 rd rs1 => { op := 0x45, rd := rd, rs1 := rs1 }
  | .atou32 rd rs1 => { op := 0x46, rd := rd, rs1 := rs1 }
  | .atou128 rd rs1 => { op := 0x47, rd := rd, rs1 := rs1 }
  | .atou128c rd rs1 => { op := 0x48, rd := rd, rs1 := rs1 }
  | .is4 rs1 => { op := 0x49, rs1 := rs1 }
  | .is6 rs1 => { op := 0x4a, rs1 := rs1 }
  | .is4in6 rs1 => { op := 0x4b, rs1 := rs1 }
  | .as4in6 rd rs1 => { op := 0x4c, rd := rd, rs1 := rs1 }
  | .un4in6 rd rs1 => { op := 0x4d, rd := rd, rs1 := rs1 }
  | .aor rd rs1 rs2 => { op := 0x4e, rd := rd, rs1 := rs1, rs2 := rs2 }
  | .aand rd rs1 rs2 => { op := 0x4f, rd := rd, rs1 := rs1, rs2 := rs2 }
  | .axor rd rs1 rs2 => { op := 0x50, rd := rd, rs1 := rs1, rs2 := rs2 }
  | .anot rd rs1 => { op := 0x51, rd := rd, rs1 := rs1 }
  | .aadd rd rs1 rs2 => { op := 0x52, rd := rd, rs1 := rs1, rs2 := rs2 }
  | .acmp rs1 rs2 => { op := 0x53, rs1 := rs1, rs2 := rs2 }
  | .abyte rd rs1 idx => { op := 0x54, rd := rd, rs1 := rs1, imm8 := idx }
  | .abits4 rd n => { op := 0x55, rd := rd, imm8 := n }
  | .abits16 rd n => { op := 0x56, rd := rd, imm8 := n }
  | .anum4 rd rs1 => { op := 0x57, rd := rd, rs1 := rs1 }
  | .anum16 rd rs1 => { op := 0x58, rd := rd, rs1 := rs1 }
  | .azero4 rd => { op := 0x59, rd := rd }
  | .azero16 rd => { op := 0x5a, rd := rd }
  | .amov rd rs1 => { op := 0x5b, rd := rd, rs1 := rs1 }
  | .ippfx rd rs1 bits => { op := 0x60, rd := rd, rs1 := rs1, imm8 := bits }
  | .ippaddr rd rs1 => { op := 0x61, rd := rd, rs1 := rs1 }
  | .ippbits rd rs1 => { op := 0x62, rd := rd, rs1 := rs1 }
  | .ipcont rs1 rs2 => { op := 0x63, rs1 := rs1, rs2 := rs2 }
  | .ipcontl rs1 mask => formatI 0x64 0 rs1 mask
  | .rpfx rd rs1 bits => { op := 0x65, rd := rd, rs1 := rs1, imm8 := bits }
  | .rpref rd rs1 => { op := 0x66, rd := rd, rs1 := rs1 }
  | .rpbits rd rs1 => { op := 0x67, rd := rd, rs1 := rs1 }
  | .rpcont rs1 rs2 => { op := 0x68, rs1 := rs1, rs2 := rs2 }
  | .rpcontl rs1 mask => formatI 0x69 0 rs1 mask
  | .subinit rs1 l => { op := 0x70, rs1 := rs1, imm8 := l }
  | .subnext rd => { op := 0x71, rd := rd }
  | .elen rd fmt => { op := 0x80, rd := rd, imm8 := fmt }
  | .elenof rd rs1 rs3 fmt => { op := 0x81, rd := rd, rs1 := rs1, rs3 := rs3, imm8 := fmt }
  | .encLeg rd rs1 rs2 rs3 off => { op := 0x82, rd := rd, rs1 := rs1, rs2 := rs2, rs3 := rs3, imm8 := off }
  | .decLeg rd rs1 rs2 rs3 off => { op := 0x83, rd := rd, rs1 := rs1, rs2 := rs2, rs3 := rs3, imm8 := off }
  | .encCur rd rs1 rs2 rs3 off => { op := 0x84, rd := rd, rs1 := rs1, rs2 := rs2, rs3 := rs3, imm8 := off }
  | .chkCur off => { op := 0x85, imm8 := off }
  | .decCur rd rs1 rs2 rs3 off => { op := 0x86, rd := rd, rs1 := rs1, rs2 := rs2, rs3 := rs3, imm8 := off }

/-- The word of a command. -/
def encode (i : Instr) : CmdWord := wordOf (encodeFields i)

/-- The command the decoder reads from a word of the opcode table: a command is one 32-bit word with bit 0 its
least significant bit, so the table's number of an instruction is the word itself. -/
def decodeTableWord (nbits w : Nat) : Option Instr :=
  match decode (BitVec.ofNat 32 (w % 2 ^ nbits)) with
  | .ok i => some i
  | .error _ => none

end Sys2Proof
end

