-- ==== Sys2Proof/Config.lean ====
section
/-! DEFINITION. The implementation parameters of 00_scope.md rule R9 that a rule's text uses by name, each
at the value this hardware takes. There is no free value: 93_implementation_defined.md treats nothing as
`any value`, so no constant here is opaque. -/

namespace Sys2Proof.Config

/-- `BUFSZ`: the size of `BUF` in bytes (00_scope.md R9, 20_memory.md R60). -/
abbrev bufSize : Nat := 256

/-- `SUBNETS_LMAX`: the exclusive upper bound of `l` in `SUBINIT` (00_scope.md R9, 44_subnets.md R295). -/
abbrev subnetsLMax : Nat := 64

/-- The shortest record of the current wire format, in bytes (45_addrrec_codec.md R316, R318). -/
abbrev minCurrentLen : Nat := 32

/-- The length of the `Ref` at the end of a record, in bytes (45_addrrec_codec.md R325). -/
abbrev refLen : Nat := 16

/-- The length of the header of a current record, in bytes (45_addrrec_codec.md R316). -/
abbrev headerLen : Nat := 4

end Sys2Proof.Config
end

