-- ==== Sys2Proof/Machine/State.lean ====
section
/-! DEFINITION. The values the registers hold, the host's interactions, the whole state of the unit, its reset,
and the two ways a step can stop. -/

namespace Sys2Proof.Machine

/-- The length of an address: 4 or 16 bytes. The version, 4 or 6, is derived from it (10_state.md R21). -/
inductive Family where
  /-- 4 bytes, version 4. -/
  | four
  /-- 16 bytes, version 6. -/
  | sixteen
  deriving DecidableEq, Repr

/-- An IP value that is an address. The byte sequence `B` of 10_state.md R21 is held as the number it spells,
most significant byte first; the two determine each other (41_endian.md R186, log entry 7). -/
inductive IPAddr where
  /-- `V4(be_4(n))`. -/
  | v4 (n : BitVec 32)
  /-- `V6(be_16(n))`. -/
  | v6 (n : U128)
  deriving DecidableEq, Repr

/-- An `IPVal`: `Uninit` or an address (10_state.md R21). `Uninit` is not the all-zero address. -/
inductive IPVal where
  /-- `Uninit`. -/
  | uninit
  /-- `V4(B)` or `V6(B)`. -/
  | addr (a : IPAddr)
  deriving DecidableEq, Repr

/-- An `IPPfx`: the pair `(addr, bits)` (10_state.md R22). -/
structure IPPfx where
  addr : IPVal
  bits : Fin 129
  deriving DecidableEq, Repr

/-- A `RefPfx`: the pair `(ref, bits)` with `0 <= bits <= 128` (10_state.md R23). -/
structure RefPfx where
  ref : U128
  bits : Fin 129
  deriving DecidableEq, Repr

/-- The three values of the flag `CC`; its fourth code never occurs (10_state.md R31). -/
inductive CmpResult where
  /-- `EQ`, code 0. -/
  | eq
  /-- `LT`, code 1. -/
  | lt
  /-- `GT`, code 2. -/
  | gt
  deriving DecidableEq, Repr

/-- The eleven fault causes of 60_exceptions.md R371. They are the hardware's faults, not `Host.Outcome.fault`:
raising one is fault entry (R380), a next state. -/
inductive Cause where
  /-- Code 1: no command, or one that is malformed. -/
  | illegalCommand
  /-- Code 2: an `a` or `p` register read holds no address. -/
  | uninitIP
  /-- Code 3: a one-operand command got an address of the other length. -/
  | familyMismatch
  /-- Code 4: the operands of a binary address command differ in length. -/
  | lengthMismatch
  /-- Code 5: `EALEN` or `GWLEN` is neither 4 nor 16 where it is used. -/
  | badLength
  /-- Code 6: a prefix or mask length exceeds the width it applies to. -/
  | prefixRange
  /-- Code 7: `EA` and `IP` of a record to encode differ in length. -/
  | recFamily
  /-- Code 8: an access or window would pass address 255. -/
  | bufRange
  /-- Code 9: a register shift amount is 128 or more. -/
  | shiftRange
  /-- Code 10: a byte index is not below the address length. -/
  | indexRange
  /-- Code 11: an illegal control register access. -/
  | csrAccess
  deriving DecidableEq, Repr

/-- The subnet iterator `it` (10_state.md R38). -/
structure Iter where
  active : Bool
  base : IPPfx
  l : BitVec 6
  idx : BitVec 64
  deriving DecidableEq, Repr

/-- `BUF`, sparsely: cells in rising address order, none holding 0x00, which is what an unlisted address reads
as (10_state.md R40: every byte is 0x00 after reset). -/
structure Memory where
  cells : List Host.Cell
  deriving DecidableEq, Repr

/-- What the status port shows (60_exceptions.md R386). -/
structure StatusPort where
  /-- `STATUS` (10_state.md R34). -/
  status : BitVec 8
  /-- The level output `fault`. -/
  fault : Bool
  /-- `FCAUSE`. -/
  fcause : BitVec 8
  /-- `FCMD`. -/
  fcmd : BitVec 32
  deriving DecidableEq, Repr

/-- The host's interactions, complete (70_reset_and_hazards.md R411). -/
inductive HostAction where
  /-- Issue a command word on the command port. -/
  | command (w : CmdWord)
  /-- `HostWrite(addr, b)` on the host port. -/
  | write (address : BitVec 8) (b : Byte)
  /-- `HostRead(addr)` on the host port. -/
  | read (address : BitVec 8)
  /-- Sample the status port. -/
  | sample
  /-- Assert reset. -/
  | reset
  deriving DecidableEq, Repr

/-- What the host gets back from an interaction (70_reset_and_hazards.md R411, the table's fourth column). -/
inductive HostReply where
  /-- Nothing: a write. -/
  | nothing
  /-- Completion of a command, executed or ignored. -/
  | completed
  /-- The byte a read returns. -/
  | byte (b : Byte)
  /-- The sampled status port. -/
  | status (p : StatusPort)
  /-- The reset state: asserting reset. It is one constant state, that of 10_state.md R40, so the reply only
  names it (log entry 2). -/
  | resetState
  deriving DecidableEq, Repr

/-- The whole state. Every field but the last two is the spec's (00_scope.md R8); `pending` and `reply` are the
model's own, the host's side of the ports (log entries 1 and 2). -/
structure State where
  /-- The `x` file: Uint128 values and Refs (10_state.md R25). -/
  x : Vector U128 16
  /-- The `a` file: IP values (10_state.md R26). -/
  a : Vector IPVal 16
  /-- The `p` file: IP prefixes (10_state.md R27). -/
  p : Vector IPPfx 16
  /-- The `q` file: Ref prefixes (10_state.md R28). -/
  q : Vector RefPfx 16
  /-- Flag `C` (10_state.md R31). -/
  c : Bool
  /-- Flag `T` (10_state.md R31). -/
  t : Bool
  /-- Flag `OK` (10_state.md R31). -/
  ok : Bool
  /-- Flag `CC` (10_state.md R31). -/
  cc : CmpResult
  /-- `FAULT` (10_state.md R35). -/
  fault : Bool
  /-- `FCAUSE` (10_state.md R35). -/
  fcause : BitVec 8
  /-- `FCMD` (10_state.md R35). -/
  fcmd : BitVec 32
  /-- `BUFLEN`, control register 1 (10_state.md R33). -/
  bufLen : BitVec 9
  /-- `LENCFG`, control register 2 (10_state.md R33). -/
  lenCfg : BitVec 16
  /-- `RLEN`, control register 3 (10_state.md R33). -/
  rlen : BitVec 9
  /-- The subnet iterator (10_state.md R38). -/
  it : Iter
  /-- `BUF` (10_state.md R37). -/
  buf : Memory
  /-- The host's interactions still to come, in its order (20_memory.md R70). The model's own. -/
  pending : List HostAction
  /-- What the host got back from its last interaction. The model's own. -/
  reply : HostReply
  deriving DecidableEq, Repr

/-- `(Uninit, 0)`: a `p` register never written (10_state.md R22). -/
def IPPfx.never : IPPfx := { addr := .uninit, bits := 0 }

/-- The state right after reset (10_state.md R40, 70_reset_and_hazards.md R400). -/
def State.reset : State where
  x := Vector.replicate 16 0
  a := Vector.replicate 16 .uninit
  p := Vector.replicate 16 IPPfx.never
  q := Vector.replicate 16 { ref := 0, bits := 0 }
  c := false
  t := false
  ok := false
  cc := .eq
  fault := false
  fcause := 0
  fcmd := 0
  bufLen := 0
  lenCfg := 0
  rlen := 0
  it := { active := false, base := IPPfx.never, l := 0, idx := 0 }
  buf := { cells := [] }
  pending := []
  reply := .resetState

/-- Why the model stops where the hardware's rules give no next state. -/
inductive Fault where
  /-- Raised by `SUBNEXT` alone, when the iterator is active and breaks the invariant of 10_state.md R38 (its base
  holds no address, its children are longer than the address, or its index is past `2^l`). 44_subnets.md R291
  defines no child there. No run from reset reaches such a state. Safe (log entry 5). -/
  | brokenIterator
  deriving DecidableEq, Repr

/-- Why the model gives an instruction no meaning. -/
inductive Refusal where
  /-- An instruction without a meaning. Raised by no arm: every command of the table has its meaning. Safe. -/
  | notModelled (mnemonic : String)
  deriving DecidableEq, Repr

/-- What executing a command answers. -/
abbrev Result := Host.Outcome State Fault Refusal

end Sys2Proof.Machine
end

