-- ==== Sys2Proof/Machine/Operands.lean ====
section
/-! DEFINITION. The pure functions the command rules are written with: byte sequences (00_scope.md R12), IP
values (42_ip_value.md R200 to R202), masks, prefixes and containment (43_prefix.md R260), the child of a prefix
(44_subnets.md R291), bit positions (40_uint128_alu.md), and the record layouts (45_addrrec_codec.md). -/

namespace Sys2Proof.Machine

/-! ### Byte sequences -/

/-- `be_n(v)`: byte `i` is `(v >> (8*(n-1-i))) & 0xff` (00_scope.md R12). -/
def beBytes : Nat → Nat → List Byte
  | 0, _ => []
  | n + 1, v => BitVec.ofNat 8 (v >>> (8 * n)) :: beBytes n v

/-- `le_n(v)`: byte `i` is `(v >> (8*i)) & 0xff` (00_scope.md R12). -/
def leBytes : Nat → Nat → List Byte
  | 0, _ => []
  | n + 1, v => BitVec.ofNat 8 v :: leBytes n (v >>> 8)

/-- `from_be(B)`: the number whose most significant byte is the first (00_scope.md R12). -/
def fromBE : List Byte → Nat
  | [] => 0
  | b :: bs => b.toNat * 256 ^ bs.length + fromBE bs

/-- `from_le(B)`: the number whose least significant byte is the first (00_scope.md R12). -/
def fromLE : List Byte → Nat
  | [] => 0
  | b :: bs => b.toNat + 256 * fromLE bs

/-! ### Addresses -/

/-- `len` of an address of this family, in bytes (10_state.md R21). -/
def Family.len : Family → Nat
  | .four => 4
  | .sixteen => 16

/-- `ver(4) = 4`, `ver(16) = 6` (45_addrrec_codec.md R317). -/
def Family.version : Family → Nat
  | .four => 4
  | .sixteen => 6

/-- The family of a length byte, when it is 4 or 16. -/
def familyOfLen (b : Byte) : Option Family :=
  if b = 4 then some .four else if b = 16 then some .sixteen else none

/-- The family of an address: its length. -/
def IPAddr.family : IPAddr → Family
  | .v4 _ => .four
  | .v6 _ => .sixteen

/-- `len(v)` (10_state.md R21). -/
def IPAddr.len (v : IPAddr) : Nat := v.family.len

/-- `zext_128(num(v))` (42_ip_value.md R200). -/
def IPAddr.num : IPAddr → U128
  | .v4 n => n.setWidth 128
  | .v6 n => n

/-- `v.B` (42_ip_value.md R200). -/
def IPAddr.bytes (v : IPAddr) : List Byte := beBytes v.len v.num.toNat

/-- `ip(n, k mod 2^(8n))` (42_ip_value.md R200). -/
def ip : Family → U128 → IPAddr
  | .four, k => .v4 (k.setWidth 32)
  | .sixteen, k => .v6 k

/-- `ipval(B)`: the address whose bytes are `B` (45_addrrec_codec.md R315); the family is `B`'s length. -/
def ipOfBytes (f : Family) (bs : List Byte) : IPAddr := ip f (BitVec.ofNat 128 (fromBE bs))

/-- `map16`: ten zero bytes, two bytes 0xff, then the four bytes of the address; a 16-byte address is itself
(42_ip_value.md R202, R217). -/
def IPAddr.map16 : IPAddr → IPAddr
  | .v4 n => .v6 (0#80 ++ 0xffff#16 ++ n)
  | .v6 n => .v6 n

/-- `mapped(v)`: a 16-byte address whose first ten bytes are zero and whose next two are 0xff
(42_ip_value.md R202). -/
def IPAddr.mapped : IPAddr → Bool
  | .v4 _ => false
  | .v6 n => n.extractLsb' 32 96 == 0xffff

/-- The 4-byte address a mapped address carries; every other address is itself (42_ip_value.md R218). -/
def IPAddr.unmap (v : IPAddr) : IPAddr :=
  if v.mapped then .v4 (v.num.setWidth 32) else v

/-- `B[len(v) - 1 - i]`, the byte `i` places from the end (42_ip_value.md R225). -/
def IPAddr.byteFromEnd (v : IPAddr) (i : Nat) : Byte := v.num.extractLsb' (8 * i) 8

/-! ### Bit positions -/

/-- The index of the highest set bit, if there is one (40_uint128_alu.md R140). -/
def highestSetBit (v : U128) : Option Nat := (List.range 128).reverse.find? fun i => v.getLsbD i

/-- The index of the lowest set bit, if there is one (40_uint128_alu.md R141). -/
def lowestSetBit (v : U128) : Option Nat := (List.range 128).find? fun i => v.getLsbD i

/-- `CLZ`: 127 less the index of the highest set bit; 128 for zero (40_uint128_alu.md R140). -/
def leadingZeros (v : U128) : Nat :=
  match highestSetBit v with
  | some k => 127 - k
  | none => 128

/-- `CTZ`: the index of the lowest set bit; 128 for zero (40_uint128_alu.md R141). -/
def trailingZeros (v : U128) : Nat :=
  match lowestSetBit v with
  | some k => k
  | none => 128

/-- `POPCNT`: the number of set bits (40_uint128_alu.md R142). -/
def popCount (v : U128) : Nat := (List.range 128).countP fun i => v.getLsbD i

/-- `BITLEN`: the index of the highest set bit plus one; 0 for zero (40_uint128_alu.md R143). -/
def bitLength (v : U128) : Nat :=
  match highestSetBit v with
  | some k => k + 1
  | none => 0

/-! ### Masks, prefixes and containment -/

/-- `topmask(w, k)`: the `w`-bit number whose top `k` bits are 1 (43_prefix.md R260). -/
def topMask (w k : Nat) : U128 := if k = 0 then 0 else BitVec.ofNat 128 ((2 ^ k - 1) * 2 ^ (w - k))

/-- `maskip(v, k)` (43_prefix.md R260). -/
def maskIP (v : IPAddr) (k : Nat) : Except Cause IPAddr :=
  if 8 * v.len < k then .error .prefixRange
  else .ok (ip v.family (v.num &&& topMask (8 * v.len) k))

/-- `r and topmask(128, k)`: `maskref(r, k)` where `k <= 128` (43_prefix.md R260). -/
def maskRef (r : U128) (k : Nat) : U128 := r &&& topMask 128 k

/-- `contains_ip((A, k), v)` (43_prefix.md R260). -/
def containsIP (A : IPAddr) (k : Nat) (v : IPAddr) : Except Cause Bool := do
  let m ← maskIP v k
  return decide (m = A)

/-- `contains_ref((R, k), r)` (43_prefix.md R260). -/
def containsRef (pf : RefPfx) (r : U128) : Bool := maskRef r pf.bits == pf.ref

/-- `child((A, k), l, i)` (44_subnets.md R291), where `k + l <= 8*len(A)`: no shift is performed for `i = 0`. -/
def child (A : IPAddr) (k l i : Nat) : IPPfx :=
  let sh := 8 * A.len - k - l
  let t : U128 := if i = 0 then 0 else BitVec.ofNat 128 (i * 2 ^ sh)
  { addr := .addr (ip A.family (A.num ||| t)), bits := Fin.ofNat 129 (k + l) }

/-- The child the iterator delivers next, where its invariant of 10_state.md R38 holds. -/
def Iter.nextChild (it : Iter) : Option IPPfx :=
  match it.base.addr with
  | .uninit => none
  | .addr A =>
    if it.base.bits.val + it.l.toNat ≤ 8 * A.len ∧ it.idx.toNat ≤ 2 ^ it.l.toNat then
      some (child A it.base.bits it.l.toNat it.idx.toNat)
    else none

/-! ### Records -/

/-- The lengths a record is laid out by: of `EA` and `IP`, and of `GW` (45_addrrec_codec.md R313, R316). -/
def recordLen (header : Nat) (ea gw : Family) : Nat := header + 2 * ea.len + gw.len + Config.refLen

/-- The header bytes of a format: none (0, legacy) or four (1, current) (45_addrrec_codec.md R322). -/
def headerLenOf (fmt : Imm8) : Nat := if fmt = 1 then Config.headerLen else 0

/-- The legacy record: `EA`, `IP`, `GW`, then the Ref most significant byte first (45_addrrec_codec.md R313). -/
def recordBody (ea ip gw : IPAddr) (ref : U128) : List Byte :=
  ea.bytes ++ ip.bytes ++ gw.bytes ++ beBytes Config.refLen ref.toNat

/-- The header of a current record: `[ver(n), n, ver(m), m]` (45_addrrec_codec.md R316). -/
def recordHeader (ea gw : Family) : List Byte :=
  [BitVec.ofNat 8 ea.version, BitVec.ofNat 8 ea.len, BitVec.ofNat 8 gw.version, BitVec.ofNat 8 gw.len]

/-- The family of a consistent (version, length) byte pair: `(4, 4)` or `(6, 16)` and no other
(45_addrrec_codec.md R317). -/
def consistent (version length : Byte) : Option Family :=
  if version = 4 ∧ length = 4 then some .four
  else if version = 6 ∧ length = 16 then some .sixteen
  else none

/-- `check(W)` (45_addrrec_codec.md R318): the families of `EA` and `GW` of an ok window, `none` for
`(false, 0)`. The length of an ok window's record is `recordLen 4` of the two. -/
def checkRecord (W : List Byte) : Option (Family × Family) :=
  if W.length < Config.minCurrentLen then none
  else
    match consistent (W.getD 0 0) (W.getD 1 0), consistent (W.getD 2 0) (W.getD 3 0) with
    | some ea, some gw => if recordLen Config.headerLen ea gw ≤ W.length then some (ea, gw) else none
    | _, _ => none

/-- The values of a record read from its bytes, `EA` first (45_addrrec_codec.md R315, R321). -/
structure RecordValues where
  ea : IPAddr
  ip : IPAddr
  gw : IPAddr
  ref : U128
  deriving DecidableEq, Repr

/-- Slice a record without header by its lengths (45_addrrec_codec.md R315). -/
def sliceRecord (ea gw : Family) (W : List Byte) : RecordValues where
  ea := ipOfBytes ea (W.take ea.len)
  ip := ipOfBytes ea ((W.drop ea.len).take ea.len)
  gw := ipOfBytes gw ((W.drop (2 * ea.len)).take gw.len)
  ref := BitVec.ofNat 128 (fromBE ((W.drop (2 * ea.len + gw.len)).take Config.refLen))

end Sys2Proof.Machine
end

