-- ==== Sys2Proof/Machine/Ops.lean ====
section
/-! DEFINITION. The named operations over registers, flags, `BUF` and the fault registers: the pseudocode
primitives of 00_scope.md rule R13, and fault entry (60_exceptions.md rule R380). There is no return from a fault
but reset (R383). -/

namespace Sys2Proof.Machine

/-! ### Register files (10_state.md R25 to R28) -/

/-- `x[i]`. -/
def readX (s : State) (i : XReg) : U128 := s.x[i.toNat]'i.isLt

/-- `x[i] <- v`. -/
def writeX (s : State) (i : XReg) (v : U128) : State := { s with x := s.x.set i.toNat v i.isLt }

/-- `a[i]`. -/
def readA (s : State) (i : AReg) : IPVal := s.a[i.toNat]'i.isLt

/-- `a[i] <- v`. -/
def writeA (s : State) (i : AReg) (v : IPVal) : State := { s with a := s.a.set i.toNat v i.isLt }

/-- `p[i]`. -/
def readP (s : State) (i : PReg) : IPPfx := s.p[i.toNat]'i.isLt

/-- `p[i] <- v`. -/
def writeP (s : State) (i : PReg) (v : IPPfx) : State := { s with p := s.p.set i.toNat v i.isLt }

/-- `q[i]`. -/
def readQ (s : State) (i : QReg) : RefPfx := s.q[i.toNat]'i.isLt

/-- `q[i] <- v`. -/
def writeQ (s : State) (i : QReg) (v : RefPfx) : State := { s with q := s.q.set i.toNat v i.isLt }

/-- `a[i]` where a command needs an address: `Uninit` raises `UninitIP` (42_ip_value.md R201). -/
def needA (s : State) (i : AReg) : Except Cause IPAddr :=
  match readA s i with
  | .uninit => .error .uninitIP
  | .addr v => .ok v

/-- `p[i]` where a command needs a prefix: `(Uninit, 0)` raises `UninitIP` (10_state.md R27). -/
def needP (s : State) (i : PReg) : Except Cause (IPAddr × Nat) :=
  match (readP s i).addr with
  | .uninit => .error .uninitIP
  | .addr A => .ok (A, (readP s i).bits)

/-! ### Flags and control registers (10_state.md R31, R33) -/

/-- `C <- b`. -/
def setC (s : State) (b : Bool) : State := { s with c := b }

/-- `T <- b`. -/
def setT (s : State) (b : Bool) : State := { s with t := b }

/-- `OK <- b`. -/
def setOK (s : State) (b : Bool) : State := { s with ok := b }

/-- `CC <- r`. -/
def setCC (s : State) (r : CmpResult) : State := { s with cc := r }

/-- `BUFLEN <- v`. -/
def setBufLen (s : State) (v : BitVec 9) : State := { s with bufLen := v }

/-- `LENCFG <- v`. -/
def setLenCfg (s : State) (v : BitVec 16) : State := { s with lenCfg := v }

/-- `RLEN <- n`. -/
def setRLen (s : State) (n : Nat) : State := { s with rlen := BitVec.ofNat 9 n }

/-- The iterator's fields (10_state.md R38). -/
def setIt (s : State) (it : Iter) : State := { s with it := it }

/-- `lens()` (45_addrrec_codec.md R312): `EALEN` in `LENCFG[7:0]`, `GWLEN` in `LENCFG[15:8]`. -/
def lens (s : State) : Except Cause (Family × Family) :=
  match familyOfLen (s.lenCfg.extractLsb' 0 8), familyOfLen (s.lenCfg.extractLsb' 8 8) with
  | some n, some m => .ok (n, m)
  | _, _ => .error .badLength

/-! ### `BUF` (20_memory.md) -/

/-- What an address that no cell lists reads as: the reset content (10_state.md R40). -/
def unlisted : Byte := 0

/-- The byte at an address of a list of cells. -/
def readCells : List Host.Cell → Nat → Byte
  | [], _ => unlisted
  | (k, v) :: rest, i => if k = i then v else readCells rest i

/-- A list of cells with one byte written, in canonical form if the list was. -/
def writeCells : List Host.Cell → Nat → Byte → List Host.Cell
  | [], i, b => if b = unlisted then [] else [(i, b)]
  | (k, v) :: rest, i, b =>
    if k < i then (k, v) :: writeCells rest i b
    else if k = i then if b = unlisted then rest else (i, b) :: rest
    else if b = unlisted then (k, v) :: rest else (i, b) :: (k, v) :: rest

/-- `BUF[i]`. -/
def Memory.read (m : Memory) (i : Nat) : Byte := readCells m.cells i

/-- `BUF[i] <- b`. -/
def Memory.write (m : Memory) (i : Nat) (b : Byte) : Memory := { cells := writeCells m.cells i b }

/-- The canonical form: addresses strictly rising, every one of `BUF`'s, and no byte that an unlisted address
would read as. -/
abbrev Memory.wf (m : Memory) : Prop :=
  m.cells.Pairwise (fun c d => c.1 < d.1) ∧ ∀ c ∈ m.cells, c.1 < Config.bufSize ∧ c.2 ≠ unlisted

/-- `BUF[i], ..., BUF[i+n-1]`. -/
def Memory.readBytes (m : Memory) : Nat → Nat → List Byte
  | _, 0 => []
  | i, n + 1 => m.read i :: m.readBytes (i + 1) n

/-- Write a byte sequence from address `i` on. -/
def Memory.writeBytes (m : Memory) : Nat → List Byte → Memory
  | _, [] => m
  | i, b :: bs => (m.write i b).writeBytes (i + 1) bs

/-- `BUF` replaced. -/
def setBuf (s : State) (m : Memory) : State := { s with buf := m }

/-- `MemRead(i, n)`, with its bounds check (00_scope.md R13, 20_memory.md R63). -/
def memRead (s : State) (i n : Nat) : Except Cause (List Byte) :=
  if i + n ≤ Config.bufSize then .ok (s.buf.readBytes i n) else .error .bufRange

/-- `MemWrite(i, n, B)` with `n = len(B)`, with its bounds check: out of range nothing is written
(00_scope.md R13, 20_memory.md R63). -/
def memWrite (s : State) (i : Nat) (B : List Byte) : Except Cause State :=
  if i + B.length ≤ Config.bufSize then .ok (setBuf s (s.buf.writeBytes i B)) else .error .bufRange

/-- The window `W` of a decoder, `BUF[off .. off+BUFLEN-1]` (45_addrrec_codec.md R311). -/
def window (s : State) (off : Imm8) : Except Cause (List Byte) := memRead s off.toNat s.bufLen.toNat

/-! ### Fault entry (60_exceptions.md R371, R380) -/

/-- The code `FCAUSE` takes (60_exceptions.md R371). -/
def Cause.code : Cause → BitVec 8
  | .illegalCommand => 1
  | .uninitIP => 2
  | .familyMismatch => 3
  | .lengthMismatch => 4
  | .badLength => 5
  | .prefixRange => 6
  | .recFamily => 7
  | .bufRange => 8
  | .shiftRange => 9
  | .indexRange => 10
  | .csrAccess => 11

/-- Fault entry: `FAULT <- 1`, `FCAUSE <- code(X)`, `FCMD <-` the command word, and nothing else changes
(60_exceptions.md R380). -/
def enterFault (s : State) (cause : Cause) (w : CmdWord) : State :=
  { s with fault := true, fcause := cause.code, fcmd := w }

/-- The end of a command: the state it leaves, or fault entry with its own word in `FCMD`. The word of a decoded
command is its encoding, since each legal word has one meaning (30_encoding.md R98, log entry 8). -/
def complete (i : Instr) (s : State) : Except Cause State → Result
  | .ok s' => .next s'
  | .error cause => .next (enterFault s cause (encode i))

/-- `IllegalCommand` unless the immediate is legal: step (3) of 60_exceptions.md R377, for a term no word decodes
to (log entry 6). -/
def needLegal (ok : Bool) : Except Cause Unit := if ok then .ok () else .error .illegalCommand

end Sys2Proof.Machine
end

