-- ==== Sys2Proof/Machine/Flags.lean ====
section
/-! DEFINITION. The flag computations (10_state.md R31), `STATUS` and the values the control registers read as
(R33, R34). -/

namespace Sys2Proof.Machine

/-- `t := x + y + C`, an integer; the sum modulo `2^128` and the carry out `t >> 128` (40_uint128_alu.md R126). -/
def addWithCarry (x y : U128) (c : Bool) : U128 × Bool :=
  let t := x.toNat + y.toNat + c.toNat
  (BitVec.ofNat 128 t, decide (2 ^ 128 ≤ t))

/-- `t := x - y - C`, an integer that may be negative; `t` modulo `2^128` and the borrow out `t < 0`
(40_uint128_alu.md R128). -/
def subWithBorrow (x y : U128) (c : Bool) : U128 × Bool :=
  let t : Int := (x.toNat : Int) - y.toNat - c.toNat
  (BitVec.ofInt 128 t, decide (t < 0))

/-- The three-way compare of two unsigned values (40_uint128_alu.md R139). -/
def compare3 (x y : U128) : CmpResult :=
  if x = y then .eq else if x.toNat < y.toNat then .lt else .gt

/-- The order of addresses: by number within a family, any 4-byte address before any 16-byte one
(42_ip_value.md R224). -/
def compareAddr (u v : IPAddr) : CmpResult :=
  if u.len = v.len then compare3 u.num v.num else if u.len = 4 then .lt else .gt

/-- The code of `CC` (10_state.md R31). -/
def CmpResult.code : CmpResult → BitVec 2
  | .eq => 0
  | .lt => 1
  | .gt => 2

/-- `STATUS`: bit 0 `C`, 1 `T`, 2 `OK`, 4:3 `CC`, 5 `ITACT`, 6 zero, 7 `FAULT` (10_state.md R34). -/
def statusWord (s : State) : BitVec 8 :=
  BitVec.ofBool s.fault ++ 0#1 ++ BitVec.ofBool s.it.active ++ s.cc.code ++ BitVec.ofBool s.ok ++
    BitVec.ofBool s.t ++ BitVec.ofBool s.c

/-- `ITCFG`: bits 5:0 `it.l`, 7:6 zero, 8 `it.active` (10_state.md R33). -/
def itCfgWord (s : State) : BitVec 9 := BitVec.ofBool s.it.active ++ 0#2 ++ s.it.l

/-- The value of a control register, zero-extended; numbers 6 to 15 raise `CsrAccess` (46_system.md R352). -/
def readCsr (s : State) (n : Csr) : Except Cause U128 :=
  if n = 0 then .ok ((statusWord s).setWidth 128)
  else if n = 1 then .ok (s.bufLen.setWidth 128)
  else if n = 2 then .ok (s.lenCfg.setWidth 128)
  else if n = 3 then .ok (s.rlen.setWidth 128)
  else if n = 4 then .ok (s.it.idx.setWidth 128)
  else if n = 5 then .ok ((itCfgWord s).setWidth 128)
  else .error .csrAccess

/-- The status port (60_exceptions.md R386). -/
def statusPort (s : State) : StatusPort :=
  { status := statusWord s, fault := s.fault, fcause := s.fcause, fcmd := s.fcmd }

end Sys2Proof.Machine
end

