-- ==== Sys2Proof/Machine/Address.lean ====
section
/-! DEFINITION. The address-value unit of 42_ip_value.md. A command that reads an `a` register holding `Uninit`
raises `UninitIP` (R201), except `AS4IN6`, `UN4IN6` and `AMOV`, which copy it. -/

namespace Sys2Proof.Machine

/-! ### Between `BUF` and the `a` file -/

/-- `ALD4`: `a[rd] <- V4(MemRead(off, 4))` (R205). -/
def execAld4 (rd : AReg) (off : Imm8) (s : State) : Result := complete (.ald4 rd off) s do
  let B ← memRead s off.toNat 4
  return writeA s rd (.addr (ipOfBytes .four B))

/-- `ALD16`: `a[rd] <- V6(MemRead(off, 16))` (R206). -/
def execAld16 (rd : AReg) (off : Imm8) (s : State) : Result := complete (.ald16 rd off) s do
  let B ← memRead s off.toNat 16
  return writeA s rd (.addr (ipOfBytes .sixteen B))

/-- An address of the family a command expects, else `FamilyMismatch` (R203). -/
def needFamily (f : Family) (v : IPAddr) : Except Cause Unit :=
  if v.family = f then .ok () else .error .familyMismatch

/-- `AST4`: the four bytes of a 4-byte address; `UninitIP`, `FamilyMismatch`, `BufRange` in that order (R207). -/
def execAst4 (rs1 : AReg) (off : Imm8) (s : State) : Result := complete (.ast4 rs1 off) s do
  let v ← needA s rs1
  needFamily .four v
  memWrite s off.toNat v.bytes

/-- `AST16`: the sixteen bytes of a 16-byte address (R208). -/
def execAst16 (rs1 : AReg) (off : Imm8) (s : State) : Result := complete (.ast16 rs1 off) s do
  let v ← needA s rs1
  needFamily .sixteen v
  memWrite s off.toNat v.bytes

/-! ### Between the `a` file and the `x` file -/

/-- `AFROMU32`: `V4(be_4(x[rs1][31:0]))` (R209). -/
def execAfromu32 (rd : AReg) (rs1 : XReg) (s : State) : Result :=
  .next (writeA s rd (.addr (.v4 ((readX s rs1).setWidth 32))))

/-- `AFROMU128`: `V6(be_16(x[rs1]))` (R210). -/
def execAfromu128 (rd : AReg) (rs1 : XReg) (s : State) : Result :=
  .next (writeA s rd (.addr (.v6 (readX s rs1))))

/-- `ATOU32`: the number of a 4-byte address (R211). -/
def execAtou32 (rd : XReg) (rs1 : AReg) (s : State) : Result := complete (.atou32 rd rs1) s do
  let v ← needA s rs1
  needFamily .four v
  return writeX s rd v.num

/-- `ATOU128`: the full sixteen bytes; of a 4-byte address, its mapped form (R212, log entry 9). -/
def execAtou128 (rd : XReg) (rs1 : AReg) (s : State) : Result := complete (.atou128 rd rs1) s do
  let v ← needA s rs1
  return writeX s rd v.map16.num

/-- `ATOU128C`: the number, zero-extended (R213; 90_conflicts.md C1). -/
def execAtou128c (rd : XReg) (rs1 : AReg) (s : State) : Result := complete (.atou128c rd rs1) s do
  let v ← needA s rs1
  return writeX s rd v.num

/-! ### Predicates -/

/-- `IS4` (R214). -/
def execIs4 (rs1 : AReg) (s : State) : Result := complete (.is4 rs1) s do
  let v ← needA s rs1
  return setT s (v.len == 4)

/-- `IS6`: "not 4", of an address (R215; 90_conflicts.md C3). -/
def execIs6 (rs1 : AReg) (s : State) : Result := complete (.is6 rs1) s do
  let v ← needA s rs1
  return setT s (v.len != 4)

/-- `IS4IN6` (R216). -/
def execIs4in6 (rs1 : AReg) (s : State) : Result := complete (.is4in6 rs1) s do
  let v ← needA s rs1
  return setT s v.mapped

/-! ### Mapping and unmapping -/

/-- `AS4IN6`: a 4-byte address becomes its mapped form; everything else, `Uninit` included, is copied (R217). -/
def execAs4in6 (rd rs1 : AReg) (s : State) : Result :=
  .next (writeA s rd (match readA s rs1 with
    | .uninit => .uninit
    | .addr v => .addr v.map16))

/-- `UN4IN6`: a mapped address becomes the 4-byte address it carries; everything else, `Uninit` included, is
copied (R218, log entry 10). -/
def execUn4in6 (rd rs1 : AReg) (s : State) : Result :=
  .next (writeA s rd (match readA s rs1 with
    | .uninit => .uninit
    | .addr v => .addr v.unmap))

/-! ### Byte-wise logic and addition -/

/-- The two operands of a binary address command: `UninitIP` for either, then `LengthMismatch` (R219). -/
def needPair (s : State) (rs1 rs2 : AReg) : Except Cause (IPAddr × IPAddr) := do
  let u ← needA s rs1
  let v ← needA s rs2
  if u.len = v.len then return (u, v) else throw .lengthMismatch

/-- `AOR`, byte by byte (R219). -/
def execAor (rd rs1 rs2 : AReg) (s : State) : Result := complete (.aor rd rs1 rs2) s do
  let (u, v) ← needPair s rs1 rs2
  return writeA s rd (.addr (ip u.family (u.num ||| v.num)))

/-- `AAND`, byte by byte (R220). -/
def execAand (rd rs1 rs2 : AReg) (s : State) : Result := complete (.aand rd rs1 rs2) s do
  let (u, v) ← needPair s rs1 rs2
  return writeA s rd (.addr (ip u.family (u.num &&& v.num)))

/-- `AXOR`, byte by byte (R221). -/
def execAxor (rd rs1 rs2 : AReg) (s : State) : Result := complete (.axor rd rs1 rs2) s do
  let (u, v) ← needPair s rs1 rs2
  return writeA s rd (.addr (ip u.family (u.num ^^^ v.num)))

/-- `ANOT`: every byte `0xff - B[i]`, the length kept (R222). -/
def execAnot (rd rs1 : AReg) (s : State) : Result := complete (.anot rd rs1) s do
  let v ← needA s rs1
  return writeA s rd (.addr (ip v.family (~~~v.num)))

/-- `AADD`: the sum modulo `2^(8n)`; `C` is not written (R223). -/
def execAadd (rd rs1 rs2 : AReg) (s : State) : Result := complete (.aadd rd rs1 rs2) s do
  let (u, v) ← needPair s rs1 rs2
  return writeA s rd (.addr (ip u.family (u.num + v.num)))

/-- `ACMP`: the total order of addresses to `CC`; different lengths are no fault (R224). -/
def execAcmp (rs1 rs2 : AReg) (s : State) : Result := complete (.acmp rs1 rs2) s do
  let u ← needA s rs1
  let v ← needA s rs2
  return setCC s (compareAddr u v)

/-- `ABYTE`: the byte `i` places from the end; `IndexRange` past the first byte (R225). -/
def execAbyte (rd : XReg) (rs1 : AReg) (idx : Imm8) (s : State) : Result := complete (.abyte rd rs1 idx) s do
  let v ← needA s rs1
  if v.len ≤ idx.toNat then throw .indexRange
  else return writeX s rd ((v.byteFromEnd idx.toNat).setWidth 128)

/-! ### Helper constructors -/

/-- The mask of the top `n` bits of an address of the family; `PrefixRange` past its width (R226, R227). -/
def maskAddr (f : Family) (n : Imm8) : Except Cause IPAddr :=
  if 8 * f.len < n.toNat then .error .prefixRange else .ok (ip f (topMask (8 * f.len) n.toNat))

/-- `ABITS4` (R226). -/
def execAbits4 (rd : AReg) (n : Imm8) (s : State) : Result := complete (.abits4 rd n) s do
  let m ← maskAddr .four n
  return writeA s rd (.addr m)

/-- `ABITS16` (R227). -/
def execAbits16 (rd : AReg) (n : Imm8) (s : State) : Result := complete (.abits16 rd n) s do
  let m ← maskAddr .sixteen n
  return writeA s rd (.addr m)

/-- `ANUM4`: `ip(4, x[rs1][31:0])` (R228). -/
def execAnum4 (rd : AReg) (rs1 : XReg) (s : State) : Result :=
  .next (writeA s rd (.addr (ip .four (((readX s rs1).setWidth 32).setWidth 128))))

/-- `ANUM16`: `ip(16, x[rs1][31:0])`, twelve zero bytes first (R229). -/
def execAnum16 (rd : AReg) (rs1 : XReg) (s : State) : Result :=
  .next (writeA s rd (.addr (ip .sixteen (((readX s rs1).setWidth 32).setWidth 128))))

/-- `AZERO4`: the address `0.0.0.0`, not `Uninit` (R230). -/
def execAzero4 (rd : AReg) (s : State) : Result := .next (writeA s rd (.addr (ip .four 0)))

/-- `AZERO16`: the address `::`, not `Uninit` (R231). -/
def execAzero16 (rd : AReg) (s : State) : Result := .next (writeA s rd (.addr (ip .sixteen 0)))

/-- `AMOV`: a copy, of `Uninit` too (R232). -/
def execAmov (rd rs1 : AReg) (s : State) : Result := .next (writeA s rd (readA s rs1))

end Sys2Proof.Machine
end

