-- ==== Sys2Proof/Machine/Alu.lean ====
section
/-! DEFINITION. The 128-bit integer ALU of 40_uint128_alu.md. All arithmetic is modulo `2^128` (R120); only
`ADDC` and `SUBB` write `C`, and no other command here writes a flag but `CMP`, `BIT` and `CVT`. -/

namespace Sys2Proof.Machine

/-- `ADD`: the sum modulo `2^128`; `C` is neither read nor written (R125). -/
def execAdd (rd rs1 rs2 : XReg) (s : State) : Result := .next (writeX s rd (readX s rs1 + readX s rs2))

/-- `ADDC`: the sum with `C`, the carry out to `C` (R126). -/
def execAddc (rd rs1 rs2 : XReg) (s : State) : Result :=
  let r := addWithCarry (readX s rs1) (readX s rs2) s.c
  .next (setC (writeX s rd r.1) r.2)

/-- `SUB`: the difference modulo `2^128` (R127). -/
def execSub (rd rs1 rs2 : XReg) (s : State) : Result := .next (writeX s rd (readX s rs1 - readX s rs2))

/-- `SUBB`: the difference less `C`, the borrow out to `C` (R128). -/
def execSubb (rd rs1 rs2 : XReg) (s : State) : Result :=
  let r := subWithBorrow (readX s rs1) (readX s rs2) s.c
  .next (setC (writeX s rd r.1) r.2)

/-- `MUL`: the low 128 bits of the product (R129). -/
def execMul (rd rs1 rs2 : XReg) (s : State) : Result := .next (writeX s rd (readX s rs1 * readX s rs2))

/-- `AND`, bit by bit (R130). -/
def execAnd (rd rs1 rs2 : XReg) (s : State) : Result := .next (writeX s rd (readX s rs1 &&& readX s rs2))

/-- `OR`, bit by bit (R131). -/
def execOr (rd rs1 rs2 : XReg) (s : State) : Result := .next (writeX s rd (readX s rs1 ||| readX s rs2))

/-- `XOR`, bit by bit (R132). -/
def execXor (rd rs1 rs2 : XReg) (s : State) : Result := .next (writeX s rd (readX s rs1 ^^^ readX s rs2))

/-- `ANDN`: the first operand with the bits of the second cleared (R133). -/
def execAndn (rd rs1 rs2 : XReg) (s : State) : Result := .next (writeX s rd (readX s rs1 &&& ~~~readX s rs2))

/-- `NOT`: every bit inverted (R134). -/
def execNot (rd rs1 : XReg) (s : State) : Result := .next (writeX s rd (~~~readX s rs1))

/-- `LSHI`: bits move toward bit 127 (R135). -/
def execLshi (rd rs1 : XReg) (n : Imm8) (s : State) : Result := complete (.lshi rd rs1 n) s do
  needLegal (legalShift n)
  return writeX s rd (readX s rs1 <<< n.toNat)

/-- `RSHI`: bits move toward bit 0, zeros enter at bit 127 (R136). -/
def execRshi (rd rs1 : XReg) (n : Imm8) (s : State) : Result := complete (.rshi rd rs1 n) s do
  needLegal (legalShift n)
  return writeX s rd (readX s rs1 >>> n.toNat)

/-- A register shift amount: all 128 bits count, and 128 or more raises `ShiftRange` (R137). -/
def shiftAmount (v : U128) : Except Cause Nat := if 128 ≤ v.toNat then .error .shiftRange else .ok v.toNat

/-- `LSH` (R137). -/
def execLsh (rd rs1 rs2 : XReg) (s : State) : Result := complete (.lsh rd rs1 rs2) s do
  let n ← shiftAmount (readX s rs2)
  return writeX s rd (readX s rs1 <<< n)

/-- `RSH` (R138). -/
def execRsh (rd rs1 rs2 : XReg) (s : State) : Result := complete (.rsh rd rs1 rs2) s do
  let n ← shiftAmount (readX s rs2)
  return writeX s rd (readX s rs1 >>> n)

/-- `CMP`: the three-way unsigned compare to `CC`; no register is written (R139). -/
def execCmp (rs1 rs2 : XReg) (s : State) : Result := .next (setCC s (compare3 (readX s rs1) (readX s rs2)))

/-- `CLZ` (R140). -/
def execClz (rd rs1 : XReg) (s : State) : Result :=
  .next (writeX s rd (BitVec.ofNat 128 (leadingZeros (readX s rs1))))

/-- `CTZ` (R141). -/
def execCtz (rd rs1 : XReg) (s : State) : Result :=
  .next (writeX s rd (BitVec.ofNat 128 (trailingZeros (readX s rs1))))

/-- `POPCNT` (R142). -/
def execPopcnt (rd rs1 : XReg) (s : State) : Result :=
  .next (writeX s rd (BitVec.ofNat 128 (popCount (readX s rs1))))

/-- `BITLEN` (R143). -/
def execBitlen (rd rs1 : XReg) (s : State) : Result :=
  .next (writeX s rd (BitVec.ofNat 128 (bitLength (readX s rs1))))

/-- `BIT`: `T <- x[rs1][n]` (R144). -/
def execBit (rs1 : XReg) (n : Imm8) (s : State) : Result := complete (.bit rs1 n) s do
  needLegal (legalShift n)
  return setT s ((readX s rs1).getLsbD n.toNat)

/-- `CVT`: a copy with `OK <- 1` where the value is below `2^w`, else `OK <- 0` and nothing more (R145). -/
def execCvt (rd rs1 : XReg) (w : Imm8) (s : State) : Result := complete (.cvt rd rs1 w) s do
  needLegal (legalWidth w)
  if (readX s rs1).toNat < 2 ^ w.toNat then return setOK (writeX s rd (readX s rs1)) true
  else return setOK s false

/-- `TRUNC`: the low `w` bits, zero-extended (R146). -/
def execTrunc (rd rs1 : XReg) (w : Imm8) (s : State) : Result := complete (.trunc rd rs1 w) s do
  needLegal (legalWidth w)
  return writeX s rd (BitVec.ofNat 128 ((readX s rs1).toNat % 2 ^ w.toNat))

end Sys2Proof.Machine
end

