-- ==== Sys2Proof/Machine/Endian.lean ====
section
/-! DEFINITION. The endian converters of 41_endian.md. The one addressing mode is absolute: the immediate is the
offset into `BUF` (R180). -/

namespace Sys2Proof.Machine

/-- `LDBE`: sixteen bytes, most significant first (R181). -/
def execLdbe (rd : XReg) (off : Imm8) (s : State) : Result := complete (.ldbe rd off) s do
  let B ← memRead s off.toNat 16
  return writeX s rd (BitVec.ofNat 128 (fromBE B))

/-- `LDLE`: sixteen bytes, least significant first (R182). -/
def execLdle (rd : XReg) (off : Imm8) (s : State) : Result := complete (.ldle rd off) s do
  let B ← memRead s off.toNat 16
  return writeX s rd (BitVec.ofNat 128 (fromLE B))

/-- `STBE`: sixteen bytes, most significant first (R183). -/
def execStbe (rs1 : XReg) (off : Imm8) (s : State) : Result :=
  complete (.stbe rs1 off) s (memWrite s off.toNat (beBytes 16 (readX s rs1).toNat))

/-- `STLE`: sixteen bytes, least significant first (R184). -/
def execStle (rs1 : XReg) (off : Imm8) (s : State) : Result :=
  complete (.stle rs1 off) s (memWrite s off.toNat (leBytes 16 (readX s rs1).toNat))

/-- `BSWAP`: `from_le(be_16(x[rs1]))` (R185). -/
def execBswap (rd rs1 : XReg) (s : State) : Result :=
  .next (writeX s rd (BitVec.ofNat 128 (fromLE (beBytes 16 (readX s rs1).toNat))))

end Sys2Proof.Machine
end

