-- ==== Sys2Proof/Machine/Prefix.lean ====
section
/-! DEFINITION. The prefix unit of 43_prefix.md: construction, accessors and containment, over addresses (`p`)
and over Refs (`q`). -/

namespace Sys2Proof.Machine

/-! ### Prefixes over addresses -/

/-- `IPPFX`: the masked address with its length; `UninitIP`, then `PrefixRange` (R261). -/
def execIppfx (rd : PReg) (rs1 : AReg) (bits : Imm8) (s : State) : Result := complete (.ippfx rd rs1 bits) s do
  let v ← needA s rs1
  let m ← maskIP v bits.toNat
  return writeP s rd { addr := .addr m, bits := Fin.ofNat 129 bits.toNat }

/-- `IPPADDR`: the masked address of a prefix (R262). -/
def execIppaddr (rd : AReg) (rs1 : PReg) (s : State) : Result := complete (.ippaddr rd rs1) s do
  let (A, _) ← needP s rs1
  return writeA s rd (.addr A)

/-- `IPPBITS`: the length of a prefix (R263). -/
def execIppbits (rd : XReg) (rs1 : PReg) (s : State) : Result := complete (.ippbits rd rs1) s do
  let (_, k) ← needP s rs1
  return writeX s rd (BitVec.ofNat 128 k)

/-- `IPCONT`: the prefix is checked first, then the address, then `PrefixRange`; values of different length are
unequal (R264). -/
def execIpcont (rs1 : PReg) (rs2 : AReg) (s : State) : Result := complete (.ipcont rs1 rs2) s do
  let (A, k) ← needP s rs1
  let v ← needA s rs2
  let hit ← containsIP A k v
  return setT s hit

/-- The scan of `IPCONTL`: the selected prefixes in the order of the list, up to the first that contains the
address; a later one is not evaluated and cannot fault (R265). -/
def scanPrefixes (s : State) (v : IPAddr) (mask : Imm16) : List Nat → Except Cause Bool
  | [] => .ok false
  | i :: rest =>
    if mask.getLsbD i then do
      let (A, k) ← needP s (BitVec.ofNat 4 i)
      let hit ← containsIP A k v
      if hit then return true else scanPrefixes s v mask rest
    else scanPrefixes s v mask rest

/-- `IPCONTL`: the address is checked before the scan, which runs from 0 to 15 (R265). -/
def execIpcontl (rs1 : AReg) (mask : Imm16) (s : State) : Result := complete (.ipcontl rs1 mask) s do
  let v ← needA s rs1
  let hit ← scanPrefixes s v mask (List.range 16)
  return setT s hit

/-! ### Prefixes over Refs -/

/-- `RPFX`: the masked Ref with its length; `PrefixRange` above 128 (R270). -/
def execRpfx (rd : QReg) (rs1 : XReg) (bits : Imm8) (s : State) : Result := complete (.rpfx rd rs1 bits) s <|
  if 128 < bits.toNat then .error .prefixRange
  else .ok (writeQ s rd { ref := maskRef (readX s rs1) bits.toNat, bits := Fin.ofNat 129 bits.toNat })

/-- `RPREF`: the ref part of a prefix (R271). -/
def execRpref (rd : XReg) (rs1 : QReg) (s : State) : Result := .next (writeX s rd (readQ s rs1).ref)

/-- `RPBITS`: the length of a prefix (R272). -/
def execRpbits (rd : XReg) (rs1 : QReg) (s : State) : Result :=
  .next (writeX s rd (BitVec.ofNat 128 (readQ s rs1).bits))

/-- `RPCONT` (R273). -/
def execRpcont (rs1 : QReg) (rs2 : XReg) (s : State) : Result :=
  .next (setT s (containsRef (readQ s rs1) (readX s rs2)))

/-- `RPCONTL`: some selected prefix contains the Ref; no entry can fault, so the order is immaterial (R274). -/
def execRpcontl (rs1 : XReg) (mask : Imm16) (s : State) : Result :=
  .next (setT s ((List.range 16).any fun i =>
    mask.getLsbD i && containsRef (readQ s (BitVec.ofNat 4 i)) (readX s rs1)))

end Sys2Proof.Machine
end

