-- ==== Sys2Proof/Machine/Record.lean ====
section
/-! DEFINITION. The record codec of 45_addrrec_codec.md, legacy and current wire formats. A record is named by
`rs1` (`EA`), `rs2` (`IP`), `rs3` (`GW`) in `a` and `rd` (`Ref`) in `x` (R310). -/

namespace Sys2Proof.Machine

/-- `ELEN`: the size of a record of the lengths in `LENCFG` (R322). -/
def execElen (rd : XReg) (fmt : Imm8) (s : State) : Result := complete (.elen rd fmt) s do
  needLegal (legalFormat fmt)
  let (n, m) ← lens s
  return writeX s rd (BitVec.ofNat 128 (recordLen (headerLenOf fmt) n m))

/-- `ELENOF`: the size of a record with these `EA` and `GW` (R323). -/
def execElenof (rd : XReg) (rs1 rs3 : AReg) (fmt : Imm8) (s : State) : Result :=
  complete (.elenof rd rs1 rs3 fmt) s do
    needLegal (legalFormat fmt)
    let ea ← needA s rs1
    let gw ← needA s rs3
    return writeX s rd (BitVec.ofNat 128 (recordLen (headerLenOf fmt) ea.family gw.family))

/-- Both encoders: the record after a header made from the two families. `UninitIP` in the order `EA`, `IP`,
`GW`, then `RecFamily`, then `BufRange`; `RLEN` takes the bytes written, and `OK` is not written (R314, R319). -/
def encodeRecord (header : Family → Family → List Byte) (rd : XReg) (rs1 rs2 rs3 : AReg) (off : Imm8)
    (s : State) : Except Cause State := do
  let ea ← needA s rs1
  let ip ← needA s rs2
  let gw ← needA s rs3
  if ea.len = ip.len then
    let B := header ea.family gw.family ++ recordBody ea ip gw (readX s rd)
    let s' ← memWrite s off.toNat B
    return setRLen s' B.length
  else throw .recFamily

/-- A successful decode: the three `a` registers in the order `EA`, `IP`, `GW`, so that of a register named twice
the later write stays, then the Ref; `OK <- 1`, `RLEN <- L` (R315, R321). -/
def writeRecord (s : State) (rd : XReg) (rs1 rs2 rs3 : AReg) (r : RecordValues) (L : Nat) : State :=
  let s1 := writeA s rs1 (.addr r.ea)
  let s2 := writeA s1 rs2 (.addr r.ip)
  let s3 := writeA s2 rs3 (.addr r.gw)
  setRLen (setOK (writeX s3 rd r.ref) true) L

/-- A not-ok decode or check: `OK <- 0`, `RLEN <- 0`, no register written (R315, R320, R321). -/
def notOk (s : State) : State := setRLen (setOK s false) 0

/-- `ENC.LEG` (R314). -/
def execEncLeg (rd : XReg) (rs1 rs2 rs3 : AReg) (off : Imm8) (s : State) : Result :=
  complete (.encLeg rd rs1 rs2 rs3 off) s (encodeRecord (fun _ _ => []) rd rs1 rs2 rs3 off s)

/-- `DEC.LEG`: `BadLength`, then `BufRange`; a window shorter than the record is not-ok (R315). -/
def execDecLeg (rd : XReg) (rs1 rs2 rs3 : AReg) (off : Imm8) (s : State) : Result :=
  complete (.decLeg rd rs1 rs2 rs3 off) s do
    let (n, m) ← lens s
    let W ← window s off
    if W.length < recordLen 0 n m then return notOk s
    else return writeRecord s rd rs1 rs2 rs3 (sliceRecord n m W) (recordLen 0 n m)

/-- `ENC.CUR` (R319). -/
def execEncCur (rd : XReg) (rs1 rs2 rs3 : AReg) (off : Imm8) (s : State) : Result :=
  complete (.encCur rd rs1 rs2 rs3 off) s (encodeRecord recordHeader rd rs1 rs2 rs3 off s)

/-- `CHK.CUR`: `OK` and `RLEN` from `check(W)` (R320). -/
def execChkCur (off : Imm8) (s : State) : Result := complete (.chkCur off) s do
  let W ← window s off
  match checkRecord W with
  | none => return notOk s
  | some (n, m) => return setRLen (setOK s true) (recordLen Config.headerLen n m)

/-- `DEC.CUR`: a window that does not check is not-ok, never a fault (R321). -/
def execDecCur (rd : XReg) (rs1 rs2 rs3 : AReg) (off : Imm8) (s : State) : Result :=
  complete (.decCur rd rs1 rs2 rs3 off) s do
    let W ← window s off
    match checkRecord W with
    | none => return notOk s
    | some (n, m) =>
      return writeRecord s rd rs1 rs2 rs3 (sliceRecord n m (W.drop Config.headerLen))
        (recordLen Config.headerLen n m)

end Sys2Proof.Machine
end

