-- ==== Sys2Proof/Machine/Subnets.lean ====
section
/-! DEFINITION. The subnet-enumeration iterator of 44_subnets.md: `SUBINIT` and `SUBNEXT`. -/

namespace Sys2Proof.Machine

/-- `SUBINIT`: latches the base and `l`; where `l >= 64` or the children would be longer than the address,
`OK <- 0` and the iterator stops, its other fields kept (R292). -/
def execSubinit (rs1 : PReg) (l : Imm8) (s : State) : Result := complete (.subinit rs1 l) s do
  let (A, k) ← needP s rs1
  if Config.subnetsLMax ≤ l.toNat ∨ 8 * A.len < k + l.toNat then
    return setOK (setIt s { s.it with active := false }) false
  else
    return setOK (setIt s { active := true, base := readP s rs1, l := l.setWidth 6, idx := 0 }) true

/-- `SUBNEXT`: the child for the current index, or no result from an inactive or exhausted iterator (R293). -/
def execSubnext (rd : PReg) (s : State) : Result :=
  if s.it.active = false then .next (setOK s false)
  else if s.it.idx.toNat = 2 ^ s.it.l.toNat then .next (setOK (setIt s { s.it with active := false }) false)
  else
    match s.it.nextChild with
    | some pf => .next (setOK (setIt (writeP s rd pf) { s.it with idx := s.it.idx + 1 }) true)
    | none => .fault .brokenIterator

end Sys2Proof.Machine
end

