-- ==== Sys2Proof/Machine/System.lean ====
section
/-! DEFINITION. The system commands of 46_system.md: `NOP`, `LI`, `MOV`, `CSRR`, `CSRWI`, `CLC`, `STC`. -/

namespace Sys2Proof.Machine

/-- `NOP`: nothing changes (R350). -/
def execNop (s : State) : Result := .next s

/-- `LI xd, #imm16`: `x[rd] <- zext_128(imm16)` (R351). -/
def execLi (rd : XReg) (imm : Imm16) (s : State) : Result := .next (writeX s rd (imm.setWidth 128))

/-- `MOV xd, xs1`: `x[rd] <- x[rs1]` (R356). -/
def execMov (rd rs1 : XReg) (s : State) : Result := .next (writeX s rd (readX s rs1))

/-- `CSRR xd, csr`: `x[rd]` takes the control register's value; numbers 6 to 15 raise `CsrAccess` (R352). -/
def execCsrr (rd : XReg) (csr : Csr) (s : State) : Result := complete (.csrr rd csr) s do
  let v ← readCsr s csr
  return writeX s rd v

/-- `CSRWI csr, #imm16`: writes `BUFLEN` (at most 256) or `LENCFG`; every other number raises `CsrAccess`
(R353). -/
def execCsrwi (csr : Csr) (imm : Imm16) (s : State) : Result := complete (.csrwi csr imm) s <|
  if csr = 1 then
    if Config.bufSize < imm.toNat then .error .csrAccess else .ok (setBufLen s (imm.setWidth 9))
  else if csr = 2 then .ok (setLenCfg s imm)
  else .error .csrAccess

/-- `CLC`: `C <- 0` (R354). -/
def execClc (s : State) : Result := .next (setC s false)

/-- `STC`: `C <- 1` (R355). -/
def execStc (s : State) : Result := .next (setC s true)

end Sys2Proof.Machine
end

