-- ==== Sys2Proof/Machine/Dispatch.lean ====
section
/-! DEFINITION. What each command does: one arm per constructor of `Instr`, each a call of its meaning. -/

namespace Sys2Proof.Machine

/-- The effect of a command on a state in which the unit runs (30_encoding.md R98, step 4). -/
def exec (i : Instr) (s : State) : Host.Outcome State Fault Refusal :=
  match i with
  | .nop => Sys2Proof.Machine.execNop s
  | .li rd imm => Sys2Proof.Machine.execLi rd imm s
  | .mov rd rs1 => Sys2Proof.Machine.execMov rd rs1 s
  | .csrr rd csr => Sys2Proof.Machine.execCsrr rd csr s
  | .csrwi csr imm => Sys2Proof.Machine.execCsrwi csr imm s
  | .clc => Sys2Proof.Machine.execClc s
  | .stc => Sys2Proof.Machine.execStc s
  | .add rd rs1 rs2 => Sys2Proof.Machine.execAdd rd rs1 rs2 s
  | .addc rd rs1 rs2 => Sys2Proof.Machine.execAddc rd rs1 rs2 s
  | .sub rd rs1 rs2 => Sys2Proof.Machine.execSub rd rs1 rs2 s
  | .subb rd rs1 rs2 => Sys2Proof.Machine.execSubb rd rs1 rs2 s
  | .mul rd rs1 rs2 => Sys2Proof.Machine.execMul rd rs1 rs2 s
  | .and rd rs1 rs2 => Sys2Proof.Machine.execAnd rd rs1 rs2 s
  | .or rd rs1 rs2 => Sys2Proof.Machine.execOr rd rs1 rs2 s
  | .xor rd rs1 rs2 => Sys2Proof.Machine.execXor rd rs1 rs2 s
  | .andn rd rs1 rs2 => Sys2Proof.Machine.execAndn rd rs1 rs2 s
  | .not rd rs1 => Sys2Proof.Machine.execNot rd rs1 s
  | .lshi rd rs1 n => Sys2Proof.Machine.execLshi rd rs1 n s
  | .rshi rd rs1 n => Sys2Proof.Machine.execRshi rd rs1 n s
  | .lsh rd rs1 rs2 => Sys2Proof.Machine.execLsh rd rs1 rs2 s
  | .rsh rd rs1 rs2 => Sys2Proof.Machine.execRsh rd rs1 rs2 s
  | .cmp rs1 rs2 => Sys2Proof.Machine.execCmp rs1 rs2 s
  | .clz rd rs1 => Sys2Proof.Machine.execClz rd rs1 s
  | .ctz rd rs1 => Sys2Proof.Machine.execCtz rd rs1 s
  | .popcnt rd rs1 => Sys2Proof.Machine.execPopcnt rd rs1 s
  | .bitlen rd rs1 => Sys2Proof.Machine.execBitlen rd rs1 s
  | .bit rs1 n => Sys2Proof.Machine.execBit rs1 n s
  | .cvt rd rs1 w => Sys2Proof.Machine.execCvt rd rs1 w s
  | .trunc rd rs1 w => Sys2Proof.Machine.execTrunc rd rs1 w s
  | .ldbe rd off => Sys2Proof.Machine.execLdbe rd off s
  | .ldle rd off => Sys2Proof.Machine.execLdle rd off s
  | .stbe rs1 off => Sys2Proof.Machine.execStbe rs1 off s
  | .stle rs1 off => Sys2Proof.Machine.execStle rs1 off s
  | .bswap rd rs1 => Sys2Proof.Machine.execBswap rd rs1 s
  | .ald4 rd off => Sys2Proof.Machine.execAld4 rd off s
  | .ald16 rd off => Sys2Proof.Machine.execAld16 rd off s
  | .ast4 rs1 off => Sys2Proof.Machine.execAst4 rs1 off s
  | .ast16 rs1 off => Sys2Proof.Machine.execAst16 rs1 off s
  | .afromu32 rd rs1 => Sys2Proof.Machine.execAfromu32 rd rs1 s
  | .afromu128 rd rs1 => Sys2Proof.Machine.execAfromu128 rd rs1 s
  | .atou32 rd rs1 => Sys2Proof.Machine.execAtou32 rd rs1 s
  | .atou128 rd rs1 => Sys2Proof.Machine.execAtou128 rd rs1 s
  | .atou128c rd rs1 => Sys2Proof.Machine.execAtou128c rd rs1 s
  | .is4 rs1 => Sys2Proof.Machine.execIs4 rs1 s
  | .is6 rs1 => Sys2Proof.Machine.execIs6 rs1 s
  | .is4in6 rs1 => Sys2Proof.Machine.execIs4in6 rs1 s
  | .as4in6 rd rs1 => Sys2Proof.Machine.execAs4in6 rd rs1 s
  | .un4in6 rd rs1 => Sys2Proof.Machine.execUn4in6 rd rs1 s
  | .aor rd rs1 rs2 => Sys2Proof.Machine.execAor rd rs1 rs2 s
  | .aand rd rs1 rs2 => Sys2Proof.Machine.execAand rd rs1 rs2 s
  | .axor rd rs1 rs2 => Sys2Proof.Machine.execAxor rd rs1 rs2 s
  | .anot rd rs1 => Sys2Proof.Machine.execAnot rd rs1 s
  | .aadd rd rs1 rs2 => Sys2Proof.Machine.execAadd rd rs1 rs2 s
  | .acmp rs1 rs2 => Sys2Proof.Machine.execAcmp rs1 rs2 s
  | .abyte rd rs1 idx => Sys2Proof.Machine.execAbyte rd rs1 idx s
  | .abits4 rd n => Sys2Proof.Machine.execAbits4 rd n s
  | .abits16 rd n => Sys2Proof.Machine.execAbits16 rd n s
  | .anum4 rd rs1 => Sys2Proof.Machine.execAnum4 rd rs1 s
  | .anum16 rd rs1 => Sys2Proof.Machine.execAnum16 rd rs1 s
  | .azero4 rd => Sys2Proof.Machine.execAzero4 rd s
  | .azero16 rd => Sys2Proof.Machine.execAzero16 rd s
  | .amov rd rs1 => Sys2Proof.Machine.execAmov rd rs1 s
  | .ippfx rd rs1 bits => Sys2Proof.Machine.execIppfx rd rs1 bits s
  | .ippaddr rd rs1 => Sys2Proof.Machine.execIppaddr rd rs1 s
  | .ippbits rd rs1 => Sys2Proof.Machine.execIppbits rd rs1 s
  | .ipcont rs1 rs2 => Sys2Proof.Machine.execIpcont rs1 rs2 s
  | .ipcontl rs1 mask => Sys2Proof.Machine.execIpcontl rs1 mask s
  | .rpfx rd rs1 bits => Sys2Proof.Machine.execRpfx rd rs1 bits s
  | .rpref rd rs1 => Sys2Proof.Machine.execRpref rd rs1 s
  | .rpbits rd rs1 => Sys2Proof.Machine.execRpbits rd rs1 s
  | .rpcont rs1 rs2 => Sys2Proof.Machine.execRpcont rs1 rs2 s
  | .rpcontl rs1 mask => Sys2Proof.Machine.execRpcontl rs1 mask s
  | .subinit rs1 l => Sys2Proof.Machine.execSubinit rs1 l s
  | .subnext rd => Sys2Proof.Machine.execSubnext rd s
  | .elen rd fmt => Sys2Proof.Machine.execElen rd fmt s
  | .elenof rd rs1 rs3 fmt => Sys2Proof.Machine.execElenof rd rs1 rs3 fmt s
  | .encLeg rd rs1 rs2 rs3 off => Sys2Proof.Machine.execEncLeg rd rs1 rs2 rs3 off s
  | .decLeg rd rs1 rs2 rs3 off => Sys2Proof.Machine.execDecLeg rd rs1 rs2 rs3 off s
  | .encCur rd rs1 rs2 rs3 off => Sys2Proof.Machine.execEncCur rd rs1 rs2 rs3 off s
  | .chkCur off => Sys2Proof.Machine.execChkCur off s
  | .decCur rd rs1 rs2 rs3 off => Sys2Proof.Machine.execDecCur rd rs1 rs2 rs3 off s

end Sys2Proof.Machine
end

