-- ==== Sys2Proof/Machine/HostPort.lean ====
section
/-! DEFINITION. The host's side: one host interaction (70_reset_and_hazards.md rule R411), and presenting a
command word. `step` calls `serve`. -/

namespace Sys2Proof.Machine

/-- The state as a command finds it: the interaction is taken off `pending`, and the host will have its
completion. -/
def taken (s : State) (rest : List HostAction) (r : HostReply) : State := { s with pending := rest, reply := r }

/-- A command word on the command port: ignored in the fault state (60_exceptions.md R381); else decoded and
executed, or, when it is no command, fault entry with `IllegalCommand` (30_encoding.md R98). -/
def issue (w : CmdWord) (s : State) : Result :=
  if s.fault then .next s
  else
    match decode w with
    | .ok i => exec i s
    | .error _ => .next (enterFault s .illegalCommand w)

/-- Reset: every piece of the spec's state at its reset value (70_reset_and_hazards.md R400); the host's own
interactions still to come and what it gets back stay as they are. -/
def assertReset (s : State) : State := { State.reset with pending := s.pending, reply := s.reply }

/-- The host's next interaction, if there is one (70_reset_and_hazards.md R411). With none the unit waits. -/
def serve (s : State) : Result :=
  match s.pending with
  | [] => .next s
  | .command w :: rest => issue w (taken s rest .completed)
  | .write k b :: rest => .next (setBuf (taken s rest .nothing) (s.buf.write k.toNat b))
  | .read k :: rest => .next (taken s rest (.byte (s.buf.read k.toNat)))
  | .sample :: rest => .next (taken s rest (.status (statusPort s)))
  | .reset :: rest => .next (assertReset (taken s rest .resetState))

/-- The host presents this word next, before what it already had in mind. -/
def present (s : State) (w : CmdWord) : State := { s with pending := .command w :: s.pending }

end Sys2Proof.Machine
end

