-- ==== Sys2Proof/Machine/Step.lean ====
section
/-! DEFINITION. One step: one interaction of the host (70_reset_and_hazards.md rule R411). -/

namespace Sys2Proof.Machine

/-- One step of the unit. It has no program counter and fetches nothing (10_state.md R30): a step takes the
host's next interaction. -/
def step (s : State) : Result := serve s

/-- The host presents the word next. The machine holds no program (70_reset_and_hazards.md R412), so this is how
an instruction comes to run (log entry 4). -/
def State.withFetchWord (s : State) (nbits w : Nat) : State := present s (BitVec.ofNat 32 (w % 2 ^ nbits))

end Sys2Proof.Machine
end

