-- ==== Sys2Proof/Safety.lean ====
section
/-! DEFINITION. What a good state is, what a command may change, and the lists of commands the spec gives: the
terms the statements are written in. -/

namespace Sys2Proof.Machine

/-! ### The invariant -/

/-- The invariant of an `IPPfx` (10_state.md R22): an address masked to a length within its width, or
`(Uninit, 0)`. -/
def IPPfx.valid (pf : IPPfx) : Prop :=
  match pf.addr with
  | .uninit => pf.bits = 0
  | .addr A => pf.bits.val ≤ 8 * A.len ∧ A.num.toNat % 2 ^ (8 * A.len - pf.bits.val) = 0

/-- The invariant of a `RefPfx` (10_state.md R23); `bits <= 128` is in its type. -/
def RefPfx.valid (pf : RefPfx) : Prop := pf.ref.toNat % 2 ^ (128 - pf.bits.val) = 0

/-- The invariant of the iterator (10_state.md R38): the index within `2^l`, and, while active, a base that holds
an address and leaves room for `l` more bits. -/
structure Iter.valid (it : Iter) : Prop where
  base : it.base.valid
  idx : it.idx.toNat ≤ 2 ^ it.l.toNat
  room : it.active = true → ∃ A, it.base.addr = .addr A ∧ it.base.bits.val + it.l.toNat ≤ 8 * A.len

/-- What holds of every state a run from reset reaches. -/
structure State.Inv (s : State) : Prop where
  /-- `BUF` is in its canonical form. -/
  buf : s.buf.wf
  /-- Every `p` register holds `(Uninit, 0)` or a masked prefix (10_state.md R27). -/
  p : ∀ r, (readP s r).valid
  /-- Every `q` register holds a masked prefix (10_state.md R28). -/
  q : ∀ r, (readQ s r).valid
  /-- The iterator (10_state.md R38). -/
  it : s.it.valid
  /-- `BUFLEN` is 0 to 256 (10_state.md R33). -/
  bufLen : s.bufLen.toNat ≤ 256
  /-- `RLEN` is at most the length of the longest record (45_addrrec_codec.md R316). -/
  rlen : s.rlen.toNat ≤ 68
  /-- Without a fault `FCAUSE` and `FCMD` are 0 (10_state.md R35). -/
  running : s.fault = false → s.fcause = 0 ∧ s.fcmd = 0
  /-- With one, `FCAUSE` is the code of a cause (10_state.md R35). -/
  faulted : s.fault = true → ∃ cause : Cause, s.fcause = cause.code

/-! ### Frames -/

/-- The pieces of state a command can write. -/
inductive Part where
  | x (r : XReg)
  | a (r : AReg)
  | p (r : PReg)
  | q (r : QReg)
  | c
  | t
  | ok
  | cc
  | bufLen
  | lenCfg
  | rlen
  | it
  | faultRegs
  | buf (k : Nat)
  deriving DecidableEq, Repr

/-- From `s` to `u` nothing changes but the listed parts: every other register, flag, control register and fault
register is as it was, and every other byte of `BUF` reads as it did. -/
structure OnlyChanges (parts : List Part) (s u : State) : Prop where
  x : ∀ r, Part.x r ∉ parts → readX u r = readX s r
  a : ∀ r, Part.a r ∉ parts → readA u r = readA s r
  p : ∀ r, Part.p r ∉ parts → readP u r = readP s r
  q : ∀ r, Part.q r ∉ parts → readQ u r = readQ s r
  c : Part.c ∉ parts → u.c = s.c
  t : Part.t ∉ parts → u.t = s.t
  ok : Part.ok ∉ parts → u.ok = s.ok
  cc : Part.cc ∉ parts → u.cc = s.cc
  bufLen : Part.bufLen ∉ parts → u.bufLen = s.bufLen
  lenCfg : Part.lenCfg ∉ parts → u.lenCfg = s.lenCfg
  rlen : Part.rlen ∉ parts → u.rlen = s.rlen
  it : Part.it ∉ parts → u.it = s.it
  faultRegs : Part.faultRegs ∉ parts → u.fault = s.fault ∧ u.fcause = s.fcause ∧ u.fcmd = s.fcmd
  buf : ∀ k, Part.buf k ∉ parts → u.buf.read k = s.buf.read k
  pending : u.pending = s.pending
  reply : u.reply = s.reply

/-- The `n` bytes of `BUF` from `off` on. -/
def bytesAt (off n : Nat) : List Part := (List.range n).map fun i => .buf (off + i)

/-- The command completes, and only the listed parts change. -/
def CompletesWith (i : Instr) (s : State) (parts : List Part) (post : State → Prop) : Prop :=
  ∃ t, exec i s = .next t ∧ post t ∧ OnlyChanges parts s t

/-- The command raises this cause: fault entry with its own word (60_exceptions.md R380). -/
def Raises (i : Instr) (s : State) (cause : Cause) : Prop :=
  exec i s = .next { s with fault := true, fcause := cause.code, fcmd := encode i }

/-! ### Lists of commands the spec gives -/

/-- The commands that can raise nothing but `IllegalCommand` (60_exceptions.md R373). -/
def neverFaults : Instr → Bool
  | .nop | .li .. | .mov .. | .clc | .stc | .add .. | .addc .. | .sub .. | .subb .. | .mul .. | .and .. | .or ..
  | .xor .. | .andn .. | .not .. | .lshi .. | .rshi .. | .cmp .. | .clz .. | .ctz .. | .popcnt .. | .bitlen ..
  | .bit .. | .cvt .. | .trunc .. | .bswap .. | .afromu32 .. | .afromu128 .. | .as4in6 .. | .un4in6 ..
  | .anum4 .. | .anum16 .. | .azero4 .. | .azero16 .. | .amov .. | .rpref .. | .rpbits .. | .rpcont ..
  | .rpcontl .. | .subnext .. => true
  | _ => false

/-- The commands that write `C` (10_state.md R31). -/
def writesC : Instr → Bool
  | .addc .. | .subb .. | .clc | .stc => true
  | _ => false

/-- The commands that write `T` (10_state.md R31). -/
def writesT : Instr → Bool
  | .bit .. | .is4 .. | .is6 .. | .is4in6 .. | .ipcont .. | .ipcontl .. | .rpcont .. | .rpcontl .. => true
  | _ => false

/-- The commands that write `OK` (10_state.md R31). -/
def writesOK : Instr → Bool
  | .cvt .. | .subinit .. | .subnext .. | .decLeg .. | .chkCur .. | .decCur .. => true
  | _ => false

/-- The commands that write `CC` (10_state.md R31). -/
def writesCC : Instr → Bool
  | .cmp .. | .acmp .. => true
  | _ => false

/-- The `x` register a command writes, if it writes one (10_state.md R25). -/
def xDest : Instr → Option XReg
  | .li rd _ | .mov rd _ | .csrr rd _ | .add rd _ _ | .addc rd _ _ | .sub rd _ _ | .subb rd _ _ | .mul rd _ _
  | .and rd _ _ | .or rd _ _ | .xor rd _ _ | .andn rd _ _ | .not rd _ | .lshi rd _ _ | .rshi rd _ _ | .lsh rd _ _
  | .rsh rd _ _ | .clz rd _ | .ctz rd _ | .popcnt rd _ | .bitlen rd _ | .cvt rd _ _ | .trunc rd _ _ | .ldbe rd _
  | .ldle rd _ | .bswap rd _ | .atou32 rd _ | .atou128 rd _ | .atou128c rd _ | .abyte rd _ _ | .ippbits rd _
  | .rpref rd _ | .rpbits rd _ | .elen rd _ | .elenof rd _ _ _ | .decLeg rd _ _ _ _ | .decCur rd _ _ _ _ => some rd
  | _ => none

/-- The `a` registers a command writes (10_state.md R26). -/
def aDests : Instr → List AReg
  | .ald4 rd _ | .ald16 rd _ | .afromu32 rd _ | .afromu128 rd _ | .as4in6 rd _ | .un4in6 rd _ | .aor rd _ _
  | .aand rd _ _ | .axor rd _ _ | .anot rd _ | .aadd rd _ _ | .abits4 rd _ | .abits16 rd _ | .anum4 rd _
  | .anum16 rd _ | .azero4 rd | .azero16 rd | .amov rd _ | .ippaddr rd _ => [rd]
  | .decLeg _ rs1 rs2 rs3 _ | .decCur _ rs1 rs2 rs3 _ => [rs1, rs2, rs3]
  | _ => []

/-- The `p` register a command writes, if it writes one (10_state.md R27). -/
def pDest : Instr → Option PReg
  | .ippfx rd _ _ | .subnext rd => some rd
  | _ => none

/-- The `q` register a command writes, if it writes one (10_state.md R28). -/
def qDest : Instr → Option QReg
  | .rpfx rd _ _ => some rd
  | _ => none

/-- The commands that write `RLEN` (10_state.md R33). -/
def writesRLen : Instr → Bool
  | .encLeg .. | .encCur .. | .decLeg .. | .chkCur .. | .decCur .. => true
  | _ => false

/-- The commands that write the iterator (44_subnets.md R296). -/
def writesIt : Instr → Bool
  | .subinit .. | .subnext .. => true
  | _ => false

/-- The commands that store to `BUF` (10_state.md R37). -/
def writesBuf : Instr → Bool
  | .stbe .. | .stle .. | .ast4 .. | .ast16 .. | .encLeg .. | .encCur .. => true
  | _ => false

/-- The `a` registers a command reads before anything else can raise a cause (42_ip_value.md R201): `Uninit` in
one of them raises `UninitIP`. `IPCONT` reads its `p` register first; either one raises it. -/
def addressOperands : Instr → List AReg
  | .ast4 rs1 _ | .ast16 rs1 _ | .atou32 _ rs1 | .atou128 _ rs1 | .atou128c _ rs1 | .is4 rs1 | .is6 rs1
  | .is4in6 rs1 | .anot _ rs1 | .abyte _ rs1 _ | .ippfx _ rs1 _ | .ipcontl rs1 _ => [rs1]
  | .aor _ rs1 rs2 | .aand _ rs1 rs2 | .axor _ rs1 rs2 | .aadd _ rs1 rs2 | .acmp rs1 rs2 => [rs1, rs2]
  | .ipcont _ rs2 => [rs2]
  | .encLeg _ rs1 rs2 rs3 _ | .encCur _ rs1 rs2 rs3 _ => [rs1, rs2, rs3]
  | .elenof _ rs1 rs3 _ => [rs1, rs3]
  | _ => []

/-- The `p` register a command reads, where `(Uninit, 0)` in it raises `UninitIP` (10_state.md R27). The list of
`IPCONTL` is not here: an entry counts only when the scan reaches it (43_prefix.md R265). -/
def prefixOperand : Instr → Option PReg
  | .ippaddr _ rs1 | .ippbits _ rs1 | .ipcont rs1 _ | .subinit rs1 _ => some rs1
  | _ => none

/-- Two states that agree on everything but `T`, `OK` and `CC` (10_state.md R31). -/
def AgreeButTOkCc (s s' : State) : Prop := s' = { s with t := s'.t, ok := s'.ok, cc := s'.cc }

/-- Two states that agree on everything but `C` (10_state.md R31). -/
def AgreeButC (s s' : State) : Prop := s' = { s with c := s'.c }

/-! ### Words the statements use -/

/-- Commands executed one after another, each from the state the one before it left. -/
def execAll : List Instr → State → Result
  | [], s => .next s
  | i :: is, s =>
    match exec i s with
    | .next t => execAll is t
    | .fault r => .fault r
    | .refused r => .refused r

/-- The twelve bytes a 4-in-6 mapped address begins with (42_ip_value.md R202). -/
def mappedHead : List Byte := List.replicate 10 0x00 ++ [0xff, 0xff]

/-- Two addresses of one length whose `k` most significant bits are the same. -/
def TopBitsAgree (k : Nat) (A v : IPAddr) : Prop :=
  A.family = v.family ∧ ∀ j, 8 * v.len - k ≤ j → j < 8 * v.len → A.num.getLsbD j = v.num.getLsbD j

/-- A `p` register holds a prefix that fits the length of an address and contains it (43_prefix.md R264). -/
def EntryContains (s : State) (v : IPAddr) (r : PReg) : Prop :=
  ∃ A, (readP s r).addr = .addr A ∧ (readP s r).bits.val ≤ 8 * v.len ∧ TopBitsAgree (readP s r).bits.val A v

/-- A `p` register holds a prefix that fits the length of an address and does not contain it. -/
def EntryMisses (s : State) (v : IPAddr) (r : PReg) : Prop :=
  ∃ A, (readP s r).addr = .addr A ∧ (readP s r).bits.val ≤ 8 * v.len ∧ ¬ TopBitsAgree (readP s r).bits.val A v

/-- What testing a `p` register against an address raises: it was never written, or its prefix is longer than the
address. -/
def EntryRaises (s : State) (v : IPAddr) (r : PReg) (cause : Cause) : Prop :=
  ((readP s r).addr = .uninit ∧ cause = .uninitIP) ∨
  (∃ A, (readP s r).addr = .addr A ∧ 8 * v.len < (readP s r).bits.val ∧ cause = .prefixRange)

/-- A Ref agrees with a Ref prefix in its `bits` most significant bits. -/
def RefTopBitsAgree (pf : RefPfx) (r : U128) : Prop :=
  ∀ j, 128 - pf.bits.val ≤ j → j < 128 → pf.ref.getLsbD j = r.getLsbD j

/-- A (version, length) byte pair that is consistent, with the length it gives (45_addrrec_codec.md R317). -/
def ConsistentPair (version length : Byte) (n : Nat) : Prop :=
  (version = 4 ∧ length = 4 ∧ n = 4) ∨ (version = 6 ∧ length = 16 ∧ n = 16)

/-- A window that checks, with the lengths its header gives (45_addrrec_codec.md R318). -/
def RecordChecks (W : List Byte) (n m : Nat) : Prop :=
  32 ≤ W.length ∧ ConsistentPair (W.getD 0 0) (W.getD 1 0) n ∧ ConsistentPair (W.getD 2 0) (W.getD 3 0) m ∧
  4 + 2 * n + m + 16 ≤ W.length

/-- A register holds the address with these bytes. -/
def HoldsBytes (s : State) (r : AReg) (B : List Byte) : Prop := ∃ v, readA s r = .addr v ∧ v.bytes = B

/-- What a decoder leaves of a record whose `EA` begins at byte `h` of the window: the Ref, and the three addresses,
of which the later write stays where a register is named twice (45_addrrec_codec.md R315, R321). -/
def HoldsRecord (t : State) (rd : XReg) (rs1 rs2 rs3 : AReg) (W : List Byte) (h n m : Nat) : Prop :=
  HoldsBytes t rs3 ((W.drop (h + 2 * n)).take m) ∧
  (rs2 ≠ rs3 → HoldsBytes t rs2 ((W.drop (h + n)).take n)) ∧
  (rs1 ≠ rs2 → rs1 ≠ rs3 → HoldsBytes t rs1 ((W.drop h).take n)) ∧
  beBytes 16 (readX t rd).toNat = (W.drop (h + 2 * n + m)).take 16

end Sys2Proof.Machine
end

