-- ==== Sys2Proof/Certificates/Slice0/Obligations.lean ====
section
/-! DEFINITION. The statements about the machine. `CompletesWith i s parts post` says that executing `i` from `s`
answers a next state which meets `post` and differs from `s` in nothing but `parts`; `Raises i s cause` says that it
is fault entry with `cause` and nothing else. -/

open Sys2Proof Sys2Proof.Machine

/-! ### Encoding -/

/-- 30_encoding.md sections 1 to 4: every well-formed command is decoded from its own word, whatever its operands. -/
def Obligations.DecodeOfEncode : Prop :=
  ∀ i : Instr, i.wf = true → decode (encode i) = .ok i

/-- 30_encoding.md section 3: a word that decodes is well formed and is the one word of its command, so
every word with a reserved field that is not zero is refused, and no word is a second spelling of a command. -/
def Obligations.EncodeOfDecode : Prop :=
  ∀ (w : CmdWord) (i : Instr), decode w = .ok i → i.wf = true ∧ encode i = w

/-- Words written out in 30_encoding.md section 4 and in the family files decode to the command they stand for. -/
def Obligations.WrittenWordsDecode : Prop :=
  decode 0x00000000 = .ok .nop ∧ decode 0x01200001 = .ok (.li 2 1) ∧ decode 0x02710000 = .ok (.mov 7 1) ∧
  decode 0x10312000 = .ok (.add 3 1 2) ∧ decode 0x82501280 = .ok (.encLeg 5 0 1 2 0x80) ∧
  decode 0x84501240 = .ok (.encCur 5 0 1 2 64) ∧ decode 0x83634580 = .ok (.decLeg 6 3 4 5 0x80) ∧
  decode 0x85000040 = .ok (.chkCur 64) ∧ decode 0x86634540 = .ok (.decCur 6 3 4 5 64) ∧
  decode 0x80100001 = .ok (.elen 1 1) ∧ decode 0x81100201 = .ok (.elenof 1 0 2 1) ∧
  decode 0x05000000 = .ok .clc ∧ decode 0x06000000 = .ok .stc ∧ (decode 0xffffffff).toOption = none

/-- 30_encoding.md section 3: a word is refused for its opcode exactly when the opcode is in the list of
unassigned ones. -/
def Obligations.UnassignedOpcodesRefused : Prop :=
  ∀ w : CmdWord, decode w = .error .unassignedOpcode ↔
    let op := (w.extractLsb' 24 8).toNat
    (0x07 ≤ op ∧ op ≤ 0x0f) ∨ (0x26 ≤ op ∧ op ≤ 0x2f) ∨ (0x35 ≤ op ∧ op ≤ 0x3f) ∨ (0x5c ≤ op ∧ op ≤ 0x5f) ∨
    (0x6a ≤ op ∧ op ≤ 0x6f) ∨ (0x72 ≤ op ∧ op ≤ 0x7f) ∨ 0x87 ≤ op

/-- 30_encoding.md section 2: the word with the fields of a command whose immediate is outside the encodable
set is refused for its immediate. -/
def Obligations.IllegalImmediatesRefused : Prop :=
  ∀ i : Instr, i.wf = false → decode (encode i) = .error .illegalImmediate

/-! ### One step of the unit -/

/-- 60_exceptions.md sections 2 and 5, 30_encoding.md section 3: presenting a word that is no command to the running
unit is fault entry with `IllegalCommand` (code 1) and that word, and changes nothing else (but for the model's own
`pending` and `reply`, log entries 1 and 2). -/
def Obligations.IllegalWordEntersFault : Prop :=
  ∀ (s : State) (w : CmdWord) (rest : List HostAction) (e : DecodeError),
    s.fault = false → s.pending = .command w :: rest → decode w = .error e →
    step s = .next { s with pending := rest, reply := .completed, fault := true, fcause := 1, fcmd := w }

/-- 70_reset_and_hazards.md section 5: a step of the running unit whose next interaction is a command word executes
the decoded command. Around it the step takes the interaction off `pending` and gives the host its completion (both
the model's own fields, log entries 1 and 2). -/
def Obligations.StepRunsDecodedCommand : Prop :=
  ∀ (s : State) (w : CmdWord) (rest : List HostAction) (i : Instr),
    s.fault = false → s.pending = .command w :: rest → decode w = .ok i →
    i.wf = true ∧ step s = exec i { s with pending := rest, reply := .completed }

/-- 60_exceptions.md section 5. In the fault state a command word, legal or not, changes nothing; the host port still
reads and writes `BUF`; the status port still shows the state; and no step but reset leaves the fault state. That the
interaction is taken off `pending` and what the host gets back stands in `reply` are the model's own (log entries 1
and 2). -/
def Obligations.FaultStateIgnoresCommands : Prop :=
  ∀ s : State, s.fault = true → s.buf.wf →
    (∀ w rest, s.pending = .command w :: rest → step s = .next { s with pending := rest, reply := .completed }) ∧
    (∀ k b rest, s.pending = .write k b :: rest → ∃ t, step s = .next t ∧
      (∀ j, t.buf.read j = if j = k.toNat then b else s.buf.read j) ∧
      { t with buf := s.buf } = { s with pending := rest, reply := .nothing }) ∧
    (∀ k rest, s.pending = .read k :: rest →
      step s = .next { s with pending := rest, reply := .byte (s.buf.read k.toNat) }) ∧
    (∀ rest, s.pending = .sample :: rest →
      step s = .next { s with
        pending := rest, reply := .status (StatusPort.mk (statusWord s) true s.fcause s.fcmd) }) ∧
    (∀ t, step s = .next t → t.fault = false → ∃ rest, s.pending = .reset :: rest)

/-- 60_exceptions.md sections 5 and 6, over a run: from the fault state, as long as no reset is among
the interactions, any number of steps leaves every register, flag, control register, fault register and iterator
field as it is. -/
def Obligations.FaultHeldUntilReset : Prop :=
  ∀ (k : Nat) (s : State), s.fault = true → (∀ a ∈ s.pending.take k, a ≠ .reset) →
    ∃ t : State, Host.Core.run Sys2Proof.core k s = .next t ∧
      { t with buf := s.buf, pending := s.pending, reply := s.reply } = s

/-- 70_reset_and_hazards.md sections 1 and 5, 20_memory.md section 6: what the host's interactions other than a
command do, running or faulted. The model's choices: the interactions to come stand in `pending` and what the host
gets back in `reply` (log entries 1 and 2), and with nothing pending the unit waits (log entry 3). -/
def Obligations.HostInteractions : Prop :=
  ∀ s : State, s.buf.wf →
    (∀ k b rest, s.pending = .write k b :: rest → ∃ t, step s = .next t ∧
      (∀ j, t.buf.read j = if j = k.toNat then b else s.buf.read j) ∧
      { t with buf := s.buf } = { s with pending := rest, reply := .nothing }) ∧
    (∀ k rest, s.pending = .read k :: rest →
      step s = .next { s with pending := rest, reply := .byte (s.buf.read k.toNat) }) ∧
    (∀ rest, s.pending = .sample :: rest →
      step s = .next { s with
        pending := rest, reply := .status (StatusPort.mk (statusWord s) s.fault s.fcause s.fcmd) }) ∧
    (∀ rest, s.pending = .reset :: rest →
      step s = .next { State.reset with pending := rest, reply := .resetState }) ∧
    (s.pending = [] → step s = .next s)

/-! ### Reset and the invariant -/

/-- 10_state.md R40: the value of every piece of state after reset. -/
def Obligations.ResetValues : Prop :=
  (∀ r, readX State.reset r = 0) ∧ (∀ r, readA State.reset r = .uninit) ∧
  (∀ r, readP State.reset r = { addr := .uninit, bits := 0 }) ∧
  (∀ r, readQ State.reset r = { ref := 0, bits := 0 }) ∧
  State.reset.c = false ∧ State.reset.t = false ∧ State.reset.ok = false ∧ State.reset.cc = .eq ∧
  State.reset.fault = false ∧ State.reset.fcause = 0x00 ∧ State.reset.fcmd = 0x00000000 ∧
  State.reset.bufLen = 0 ∧ State.reset.lenCfg = 0x0000 ∧ State.reset.rlen = 0 ∧
  State.reset.it.active = false ∧ State.reset.it.base = { addr := .uninit, bits := 0 } ∧
  State.reset.it.l = 0 ∧ State.reset.it.idx = 0 ∧ (∀ k, State.reset.buf.read k = 0x00)

/-- The state after reset meets the invariant. -/
def Obligations.ResetMeetsInv : Prop := State.reset.Inv

/-- The invariants of 10_state.md (R22, R23, R27, R28, R33, R35, R38), and the canonical form of `BUF`, are kept by
every step, whatever the interaction. -/
def Obligations.StepKeepsInv : Prop :=
  ∀ s t : State, s.Inv → step s = .next t → t.Inv

/-- 70_reset_and_hazards.md section 4: every interaction completes or enters the fault state, and from a state
that meets the invariant a step never stops. -/
def Obligations.StepAlwaysAnswers : Prop :=
  ∀ s : State, s.Inv → ∃ t, step s = .next t

/-- 60_exceptions.md R380: when a presented command raises a cause, `FAULT` is 1, `FCAUSE` is the code of the cause,
`FCMD` is the presented word, and nothing else of the spec's state changes. The code of each of the eleven causes is
the number of the table of 60_exceptions.md section 2. -/
def Obligations.FaultEntryChangesNothingElse : Prop :=
  (Cause.code .illegalCommand = 1 ∧ Cause.code .uninitIP = 2 ∧ Cause.code .familyMismatch = 3 ∧
    Cause.code .lengthMismatch = 4 ∧ Cause.code .badLength = 5 ∧ Cause.code .prefixRange = 6 ∧
    Cause.code .recFamily = 7 ∧ Cause.code .bufRange = 8 ∧ Cause.code .shiftRange = 9 ∧
    Cause.code .indexRange = 10 ∧ Cause.code .csrAccess = 11) ∧
  ∀ (s t : State) (w : CmdWord) (rest : List HostAction),
    s.fault = false → s.pending = .command w :: rest → step s = .next t → t.fault = true →
    ∃ cause : Cause, { t with pending := s.pending, reply := s.reply } =
      { s with fault := true, fcause := cause.code, fcmd := w }

/-! ### What no other command does -/

/-- 10_state.md section 5, the table's column "written by": every other command leaves the flag unchanged. -/
def Obligations.FlagsWrittenOnlyByTheirCommands : Prop :=
  ∀ (i : Instr) (s t : State), exec i s = .next t →
    (writesC i = false → t.c = s.c) ∧ (writesT i = false → t.t = s.t) ∧
    (writesOK i = false → t.ok = s.ok) ∧ (writesCC i = false → t.cc = s.cc)

/-- 10_state.md sections 2 and 3: a register changes only where it is a destination of the command. -/
def Obligations.RegistersWrittenOnlyByTheirCommands : Prop :=
  ∀ (i : Instr) (s t : State), exec i s = .next t →
    (∀ r, xDest i ≠ some r → readX t r = readX s r) ∧ (∀ r, r ∉ aDests i → readA t r = readA s r) ∧
    (∀ r, pDest i ≠ some r → readP t r = readP s r) ∧ (∀ r, qDest i ≠ some r → readQ t r = readQ s r)

/-- 10_state.md sections 6 and 7, 44_subnets.md section 3: the control registers, the iterator and `BUF` change only
by the commands the spec lists for each; no command touches the host's side. -/
def Obligations.ControlStateWrittenOnlyByItsCommands : Prop :=
  ∀ (i : Instr) (s t : State), exec i s = .next t →
    ((∀ imm, i ≠ .csrwi 1 imm) → t.bufLen = s.bufLen) ∧ ((∀ imm, i ≠ .csrwi 2 imm) → t.lenCfg = s.lenCfg) ∧
    (writesRLen i = false → t.rlen = s.rlen) ∧ (writesIt i = false → t.it = s.it) ∧
    (writesBuf i = false → t.buf = s.buf) ∧ t.pending = s.pending ∧ t.reply = s.reply

/-- 10_state.md section 5: no command's result depends on `T`, `OK` or `CC`, but `CSRR` of `STATUS`. From two states
that differ in nothing else a command does the same, and each of the three is either written the same or kept. -/
def Obligations.ResultsIgnoreTOkCc : Prop :=
  ∀ (i : Instr) (s s' t : State), (∀ rd, i ≠ .csrr rd 0) → AgreeButTOkCc s s' → exec i s = .next t →
    ∃ t', exec i s' = .next t' ∧ AgreeButTOkCc t t' ∧
      (t.t = t'.t ∨ (t.t = s.t ∧ t'.t = s'.t)) ∧ (t.ok = t'.ok ∨ (t.ok = s.ok ∧ t'.ok = s'.ok)) ∧
      (t.cc = t'.cc ∨ (t.cc = s.cc ∧ t'.cc = s'.cc))

/-- 10_state.md section 5: only the results of `ADDC` and `SUBB` depend on `C`, but for `CSRR` of `STATUS`. -/
def Obligations.OnlyAddcAndSubbReadC : Prop :=
  ∀ (i : Instr) (s s' t : State), (∀ rd, i ≠ .csrr rd 0) → (∀ rd rs1 rs2, i ≠ .addc rd rs1 rs2) →
    (∀ rd rs1 rs2, i ≠ .subb rd rs1 rs2) → AgreeButC s s' → exec i s = .next t →
    ∃ t', exec i s' = .next t' ∧ AgreeButC t t' ∧ (t.c = t'.c ∨ (t.c = s.c ∧ t'.c = s'.c))

/-- 60_exceptions.md R373: the listed commands, correctly encoded, never fault, in any state whose iterator meets
its invariant. -/
def Obligations.NeverFaultingCommands : Prop :=
  ∀ (i : Instr) (s : State), neverFaults i = true → i.wf = true → s.it.valid →
    ∃ t, exec i s = .next t ∧ t.fault = s.fault ∧ t.fcause = s.fcause ∧ t.fcmd = s.fcmd

/-! ### System commands -/

/-- 46_system.md: `NOP`, `LI`, `MOV`, `CLC`, `STC`. -/
def Obligations.ConstantsMovesCarry : Prop :=
  ∀ (s : State) (rd rs1 : XReg) (imm : Imm16),
    exec .nop s = .next s ∧
    CompletesWith (.li rd imm) s [.x rd] (fun t => (readX t rd).toNat = imm.toNat) ∧
    CompletesWith (.mov rd rs1) s [.x rd] (fun t => readX t rd = readX s rs1) ∧
    CompletesWith .clc s [.c] (fun t => t.c = false) ∧ CompletesWith .stc s [.c] (fun t => t.c = true)

/-- 46_system.md, 10_state.md section 6: what `CSRR` reads of each of the six control registers, and `CsrAccess` for
every other number. -/
def Obligations.ControlRegisterRead : Prop :=
  ∀ (s : State) (rd : XReg),
    CompletesWith (.csrr rd 0) s [.x rd] (fun t =>
      (readX t rd).getLsbD 0 = s.c ∧ (readX t rd).getLsbD 1 = s.t ∧ (readX t rd).getLsbD 2 = s.ok ∧
      ((readX t rd).extractLsb' 3 2).toNat = (match s.cc with | .eq => 0 | .lt => 1 | .gt => 2) ∧
      (readX t rd).getLsbD 5 = s.it.active ∧ (readX t rd).getLsbD 6 = false ∧ (readX t rd).getLsbD 7 = s.fault ∧
      (readX t rd).toNat < 256) ∧
    CompletesWith (.csrr rd 1) s [.x rd] (fun t => (readX t rd).toNat = s.bufLen.toNat) ∧
    CompletesWith (.csrr rd 2) s [.x rd] (fun t => (readX t rd).toNat = s.lenCfg.toNat) ∧
    CompletesWith (.csrr rd 3) s [.x rd] (fun t => (readX t rd).toNat = s.rlen.toNat) ∧
    CompletesWith (.csrr rd 4) s [.x rd] (fun t => (readX t rd).toNat = s.it.idx.toNat) ∧
    CompletesWith (.csrr rd 5) s [.x rd]
      (fun t => (readX t rd).toNat = s.it.l.toNat + 256 * s.it.active.toNat) ∧
    (∀ csr : Csr, 6 ≤ csr.toNat → Raises (.csrr rd csr) s .csrAccess)

/-- 46_system.md: `CSRWI` writes `BUFLEN` with a value up to 256 and `LENCFG` with any, and raises `CsrAccess` for
a larger `BUFLEN` and for every other number. -/
def Obligations.ControlRegisterWrite : Prop :=
  ∀ (s : State) (imm : Imm16),
    (imm.toNat ≤ 256 → CompletesWith (.csrwi 1 imm) s [.bufLen] (fun t => t.bufLen.toNat = imm.toNat)) ∧
    (256 < imm.toNat → Raises (.csrwi 1 imm) s .csrAccess) ∧
    CompletesWith (.csrwi 2 imm) s [.lenCfg] (fun t => t.lenCfg = imm) ∧
    (∀ csr : Csr, csr ≠ 1 → csr ≠ 2 → Raises (.csrwi csr imm) s .csrAccess)

/-! ### The 128-bit ALU -/

/-- 40_uint128_alu.md R120: `ADD`, `SUB`, `MUL` deliver the true result modulo `2^128`; no flag and no
other register changes. -/
def Obligations.AddSubMulWrap : Prop :=
  ∀ (s : State) (rd rs1 rs2 : XReg),
    let x := (readX s rs1).toNat
    let y := (readX s rs2).toNat
    CompletesWith (.add rd rs1 rs2) s [.x rd] (fun t => (readX t rd).toNat = (x + y) % 2 ^ 128) ∧
    CompletesWith (.sub rd rs1 rs2) s [.x rd]
      (fun t => (readX t rd).toNat = if y ≤ x then x - y else 2 ^ 128 + x - y) ∧
    CompletesWith (.mul rd rs1 rs2) s [.x rd] (fun t => (readX t rd).toNat = x * y % 2 ^ 128)

/-- 40_uint128_alu.md section 2: with the carry or borrow it leaves in `C`, the result of `ADDC` is the exact sum and
that of `SUBB` the exact difference. -/
def Obligations.CarryAndBorrowExact : Prop :=
  ∀ (s : State) (rd rs1 rs2 : XReg),
    let x := (readX s rs1).toNat
    let y := (readX s rs2).toNat
    CompletesWith (.addc rd rs1 rs2) s [.x rd, .c]
      (fun t => (readX t rd).toNat + 2 ^ 128 * t.c.toNat = x + y + s.c.toNat) ∧
    CompletesWith (.subb rd rs1 rs2) s [.x rd, .c]
      (fun t => (readX t rd).toNat + y + s.c.toNat = x + 2 ^ 128 * t.c.toNat)

/-- 40_uint128_alu.md section 2, the chains given under `ADDC` and `SUBB`: `CLC` and two of them are an exact 256-bit
add and subtract, where the first result overwrites neither high operand nor the second result. -/
def Obligations.WideAddAndSubtract : Prop :=
  ∀ (s : State) (lo hi aLo aHi bLo bHi : XReg), lo ≠ aHi → lo ≠ bHi → lo ≠ hi →
    let A := (readX s aLo).toNat + 2 ^ 128 * (readX s aHi).toNat
    let B := (readX s bLo).toNat + 2 ^ 128 * (readX s bHi).toNat
    (∃ t, execAll [.clc, .addc lo aLo bLo, .addc hi aHi bHi] s = .next t ∧
      (readX t lo).toNat + 2 ^ 128 * (readX t hi).toNat + 2 ^ 256 * t.c.toNat = A + B ∧
      OnlyChanges [.x lo, .x hi, .c] s t) ∧
    (∃ t, execAll [.clc, .subb lo aLo bLo, .subb hi aHi bHi] s = .next t ∧
      (readX t lo).toNat + 2 ^ 128 * (readX t hi).toNat + B = A + 2 ^ 256 * t.c.toNat ∧
      OnlyChanges [.x lo, .x hi, .c] s t)

/-- 40_uint128_alu.md section 4: the bitwise commands, for every bit. -/
def Obligations.BitwiseBits : Prop :=
  ∀ (s : State) (rd rs1 rs2 : XReg),
    let x := readX s rs1
    let y := readX s rs2
    CompletesWith (.and rd rs1 rs2) s [.x rd]
      (fun t => ∀ j, (readX t rd).getLsbD j = (x.getLsbD j && y.getLsbD j)) ∧
    CompletesWith (.or rd rs1 rs2) s [.x rd]
      (fun t => ∀ j, (readX t rd).getLsbD j = (x.getLsbD j || y.getLsbD j)) ∧
    CompletesWith (.xor rd rs1 rs2) s [.x rd]
      (fun t => ∀ j, (readX t rd).getLsbD j = (x.getLsbD j ^^ y.getLsbD j)) ∧
    CompletesWith (.andn rd rs1 rs2) s [.x rd]
      (fun t => ∀ j, (readX t rd).getLsbD j = (x.getLsbD j && !y.getLsbD j)) ∧
    CompletesWith (.not rd rs1) s [.x rd] (fun t => (readX t rd).toNat = 2 ^ 128 - 1 - x.toNat)

/-- 40_uint128_alu.md section 5: shifts by an immediate that can be encoded. -/
def Obligations.ShiftByImmediate : Prop :=
  ∀ (s : State) (rd rs1 : XReg) (n : Imm8), n.toNat < 128 →
    CompletesWith (.lshi rd rs1 n) s [.x rd]
      (fun t => (readX t rd).toNat = (readX s rs1).toNat * 2 ^ n.toNat % 2 ^ 128) ∧
    CompletesWith (.rshi rd rs1 n) s [.x rd]
      (fun t => (readX t rd).toNat = (readX s rs1).toNat / 2 ^ n.toNat)

/-- 40_uint128_alu.md section 5: shifts by a register, and `ShiftRange` for an amount of 128 or more, of which all
128 bits count. -/
def Obligations.ShiftByRegister : Prop :=
  ∀ (s : State) (rd rs1 rs2 : XReg),
    let n := (readX s rs2).toNat
    (n < 128 →
      CompletesWith (.lsh rd rs1 rs2) s [.x rd]
        (fun t => (readX t rd).toNat = (readX s rs1).toNat * 2 ^ n % 2 ^ 128) ∧
      CompletesWith (.rsh rd rs1 rs2) s [.x rd] (fun t => (readX t rd).toNat = (readX s rs1).toNat / 2 ^ n)) ∧
    (128 ≤ n → Raises (.lsh rd rs1 rs2) s .shiftRange ∧ Raises (.rsh rd rs1 rs2) s .shiftRange)

/-- 40_uint128_alu.md sections 6 and 7: `CMP` is the unsigned three-way compare, `BIT` the bit counted from the least
significant; neither writes a register. -/
def Obligations.CompareAndBitTest : Prop :=
  ∀ (s : State) (rs1 rs2 : XReg) (n : Imm8),
    let x := (readX s rs1).toNat
    let y := (readX s rs2).toNat
    CompletesWith (.cmp rs1 rs2) s [.cc] (fun t =>
      (t.cc = .eq ↔ x = y) ∧ (t.cc = .lt ↔ x < y) ∧ (t.cc = .gt ↔ y < x)) ∧
    (n.toNat < 128 → CompletesWith (.bit rs1 n) s [.t] (fun t => t.t = decide (x / 2 ^ n.toNat % 2 = 1)))

/-- 40_uint128_alu.md section 7: the four counts, by the highest and the lowest set bit and the number of set
bits. -/
def Obligations.BitCounts : Prop :=
  ∀ (s : State) (rd rs1 : XReg),
    let v := readX s rs1
    CompletesWith (.clz rd rs1) s [.x rd] (fun t => (v = 0 → (readX t rd).toNat = 128) ∧
      ∀ k, v.getLsbD k = true → (∀ j, k < j → v.getLsbD j = false) → (readX t rd).toNat = 127 - k) ∧
    CompletesWith (.ctz rd rs1) s [.x rd] (fun t => (v = 0 → (readX t rd).toNat = 128) ∧
      ∀ k, v.getLsbD k = true → (∀ j, j < k → v.getLsbD j = false) → (readX t rd).toNat = k) ∧
    CompletesWith (.popcnt rd rs1) s [.x rd] (fun t =>
      (readX t rd).toNat = (Finset.univ.filter fun j : Fin 128 => v.getLsbD j.val = true).card) ∧
    CompletesWith (.bitlen rd rs1) s [.x rd] (fun t => (v = 0 → (readX t rd).toNat = 0) ∧
      ∀ k, v.getLsbD k = true → (∀ j, k < j → v.getLsbD j = false) → (readX t rd).toNat = k + 1)

/-- 40_uint128_alu.md section 8: the checked conversion copies a value that fits and says so in `OK`, and writes `OK`
alone where it does not; the unchecked one keeps the low bits. -/
def Obligations.ConvertAndTruncate : Prop :=
  ∀ (s : State) (rd rs1 : XReg) (w : Imm8), w.toNat ∈ [8, 16, 32, 64] →
    ((readX s rs1).toNat < 2 ^ w.toNat →
      CompletesWith (.cvt rd rs1 w) s [.x rd, .ok] (fun t => readX t rd = readX s rs1 ∧ t.ok = true)) ∧
    (2 ^ w.toNat ≤ (readX s rs1).toNat → CompletesWith (.cvt rd rs1 w) s [.ok] (fun t => t.ok = false)) ∧
    CompletesWith (.trunc rd rs1 w) s [.x rd]
      (fun t => (readX t rd).toNat = (readX s rs1).toNat % 2 ^ w.toNat)

/-! ### Endian converters -/

/-- 41_endian.md: `LDBE` and `LDLE` put byte `j` of the sixteen where their order puts it; past the end of `BUF` they
raise `BufRange`. -/
def Obligations.LoadsPlaceTheBytes : Prop :=
  ∀ (s : State) (rd : XReg) (off : Imm8),
    (off.toNat + 16 ≤ 256 →
      CompletesWith (.ldbe rd off) s [.x rd]
        (fun t => ∀ j < 16, (readX t rd).extractLsb' (8 * (15 - j)) 8 = s.buf.read (off.toNat + j)) ∧
      CompletesWith (.ldle rd off) s [.x rd]
        (fun t => ∀ j < 16, (readX t rd).extractLsb' (8 * j) 8 = s.buf.read (off.toNat + j))) ∧
    (256 < off.toNat + 16 → Raises (.ldbe rd off) s .bufRange ∧ Raises (.ldle rd off) s .bufRange)

/-- 41_endian.md: `STBE` and `STLE` write sixteen bytes from the offset on, and no other; past the end of `BUF` they
raise `BufRange` and write none. -/
def Obligations.StoresPlaceTheBytes : Prop :=
  ∀ (s : State) (rs1 : XReg) (off : Imm8), s.buf.wf →
    (off.toNat + 16 ≤ 256 →
      CompletesWith (.stbe rs1 off) s (bytesAt off.toNat 16)
        (fun t => ∀ j < 16, t.buf.read (off.toNat + j) = (readX s rs1).extractLsb' (8 * (15 - j)) 8) ∧
      CompletesWith (.stle rs1 off) s (bytesAt off.toNat 16)
        (fun t => ∀ j < 16, t.buf.read (off.toNat + j) = (readX s rs1).extractLsb' (8 * j) 8)) ∧
    (256 < off.toNat + 16 → Raises (.stbe rs1 off) s .bufRange ∧ Raises (.stle rs1 off) s .bufRange)

/-- 41_endian.md R186: the two byte orders are bijections between 128-bit values and sixteen-byte sequences, and one
is the reverse of the other. -/
def Obligations.EndianLaws : Prop :=
  (∀ v : U128, BitVec.ofNat 128 (fromBE (beBytes 16 v.toNat)) = v) ∧
  (∀ b : List Byte, b.length = 16 → beBytes 16 (fromBE b) = b) ∧
  (∀ v : U128, BitVec.ofNat 128 (fromLE (leBytes 16 v.toNat)) = v) ∧
  (∀ b : List Byte, b.length = 16 → leBytes 16 (fromLE b) = b) ∧
  (∀ v : U128, leBytes 16 v.toNat = (beBytes 16 v.toNat).reverse)

/-- 20_memory.md R75: sixteen bytes loaded and stored in one byte order arrive unchanged. -/
def Obligations.LoadStoreRoundTrip : Prop :=
  ∀ (s : State) (rd : XReg) (o o2 : Imm8) (b : List Byte), s.buf.wf → o.toNat + 16 ≤ 256 → o2.toNat + 16 ≤ 256 →
    b.length = 16 → s.buf.readBytes o.toNat 16 = b →
    (∃ t, execAll [.ldbe rd o, .stbe rd o2] s = .next t ∧ t.buf.readBytes o2.toNat 16 = b) ∧
    (∃ t, execAll [.ldle rd o, .stle rd o2] s = .next t ∧ t.buf.readBytes o2.toNat 16 = b)

/-- 41_endian.md: byte `j` of the result of `BSWAP` is byte `15 - j` of its source, and `BSWAP` twice restores the
value. -/
def Obligations.ByteSwapReverses : Prop :=
  ∀ (s : State) (rd rs1 : XReg),
    CompletesWith (.bswap rd rs1) s [.x rd] (fun t =>
      (∀ j < 16, (readX t rd).extractLsb' (8 * j) 8 = (readX s rs1).extractLsb' (8 * (15 - j)) 8) ∧
      CompletesWith (.bswap rd rd) t [.x rd] (fun u => readX u rd = readX s rs1))

/-! ### Address values -/

/-- 42_ip_value.md section 2: `ALD4` and `ALD16` make the address with the bytes of `BUF`; past the end of `BUF` they
raise `BufRange`. -/
def Obligations.AddressLoads : Prop :=
  ∀ (s : State) (rd : AReg) (off : Imm8),
    (off.toNat + 4 ≤ 256 →
      CompletesWith (.ald4 rd off) s [.a rd] (fun t => HoldsBytes t rd (s.buf.readBytes off.toNat 4))) ∧
    (256 < off.toNat + 4 → Raises (.ald4 rd off) s .bufRange) ∧
    (off.toNat + 16 ≤ 256 →
      CompletesWith (.ald16 rd off) s [.a rd] (fun t => HoldsBytes t rd (s.buf.readBytes off.toNat 16))) ∧
    (256 < off.toNat + 16 → Raises (.ald16 rd off) s .bufRange)

/-- 42_ip_value.md section 2: `AST4` and `AST16` write the bytes of an address of their own length and no other byte;
an address of the other length raises `FamilyMismatch`, then the end of `BUF` raises `BufRange`. -/
def Obligations.AddressStores : Prop :=
  ∀ (s : State) (rs1 : AReg) (off : Imm8) (v : IPAddr), s.buf.wf → readA s rs1 = .addr v →
    (v.len = 4 → off.toNat + 4 ≤ 256 →
      CompletesWith (.ast4 rs1 off) s (bytesAt off.toNat 4) (fun t => t.buf.readBytes off.toNat 4 = v.bytes)) ∧
    (v.len = 4 → 256 < off.toNat + 4 → Raises (.ast4 rs1 off) s .bufRange) ∧
    (v.len = 16 → Raises (.ast4 rs1 off) s .familyMismatch) ∧
    (v.len = 16 → off.toNat + 16 ≤ 256 →
      CompletesWith (.ast16 rs1 off) s (bytesAt off.toNat 16)
        (fun t => t.buf.readBytes off.toNat 16 = v.bytes)) ∧
    (v.len = 16 → 256 < off.toNat + 16 → Raises (.ast16 rs1 off) s .bufRange) ∧
    (v.len = 4 → Raises (.ast16 rs1 off) s .familyMismatch)

/-- 42_ip_value.md sections 3 and 8: addresses made from a number, the all-zero address, and the masks, with
`PrefixRange` for a mask longer than the address. -/
def Obligations.AddressesFromNumbers : Prop :=
  ∀ (s : State) (rd : AReg) (rs1 : XReg) (n : Imm8),
    let x := (readX s rs1).toNat
    CompletesWith (.afromu32 rd rs1) s [.a rd]
      (fun t => HoldsBytes t rd (beBytes 4 (x % 2 ^ 32))) ∧
    CompletesWith (.afromu128 rd rs1) s [.a rd] (fun t => HoldsBytes t rd (beBytes 16 x)) ∧
    CompletesWith (.anum4 rd rs1) s [.a rd] (fun t => HoldsBytes t rd (beBytes 4 (x % 2 ^ 32))) ∧
    CompletesWith (.anum16 rd rs1) s [.a rd] (fun t => HoldsBytes t rd (beBytes 16 (x % 2 ^ 32))) ∧
    CompletesWith (.azero4 rd) s [.a rd] (fun t => HoldsBytes t rd (List.replicate 4 0x00)) ∧
    CompletesWith (.azero16 rd) s [.a rd] (fun t => HoldsBytes t rd (List.replicate 16 0x00)) ∧
    (n.toNat ≤ 32 → CompletesWith (.abits4 rd n) s [.a rd] (fun t => ∃ m, readA t rd = .addr (.v4 m) ∧
      ∀ j < 32, m.getLsbD j = decide (32 - n.toNat ≤ j))) ∧
    (32 < n.toNat → Raises (.abits4 rd n) s .prefixRange) ∧
    (n.toNat ≤ 128 → CompletesWith (.abits16 rd n) s [.a rd] (fun t => ∃ m, readA t rd = .addr (.v6 m) ∧
      ∀ j < 128, m.getLsbD j = decide (128 - n.toNat ≤ j))) ∧
    (128 < n.toNat → Raises (.abits16 rd n) s .prefixRange)

/-- 42_ip_value.md sections 5 and 8: what the three commands that copy `Uninit` do with every value. That `UN4IN6`
copies a value that is not mapped is a decision of the spec (92_eei_decisions.md D19, U6) on a point its source leaves
open, a DESIGN CHOICE (log entry 10). -/
def Obligations.AddressCopyAndMap : Prop :=
  ∀ (s : State) (rd rs1 : AReg),
    CompletesWith (.amov rd rs1) s [.a rd] (fun t => readA t rd = readA s rs1) ∧
    CompletesWith (.as4in6 rd rs1) s [.a rd] (fun t =>
      (readA s rs1 = .uninit → readA t rd = .uninit) ∧
      (∀ v, readA s rs1 = .addr v → v.len = 4 → HoldsBytes t rd (mappedHead ++ v.bytes)) ∧
      (∀ v, readA s rs1 = .addr v → v.len = 16 → readA t rd = .addr v)) ∧
    CompletesWith (.un4in6 rd rs1) s [.a rd] (fun t =>
      (readA s rs1 = .uninit → readA t rd = .uninit) ∧
      (∀ v, readA s rs1 = .addr v → v.bytes.take 12 = mappedHead → HoldsBytes t rd (v.bytes.drop 12)) ∧
      (∀ v, readA s rs1 = .addr v → v.bytes.take 12 ≠ mappedHead → readA t rd = .addr v))

/-- 42_ip_value.md sections 3 and 7: the numbers read from an address, with `FamilyMismatch` for `ATOU32` of a
16-byte address and `IndexRange` for `ABYTE` past the first byte. That `ATOU128` of a 4-byte address is its mapped form
is a decision of the spec (92_eei_decisions.md D17, U5) on a point its source leaves open, a DESIGN CHOICE (log
entry 9). -/
def Obligations.NumbersFromAddresses : Prop :=
  ∀ (s : State) (rd : XReg) (rs1 : AReg) (v : IPAddr) (idx : Imm8), readA s rs1 = .addr v →
    (v.len = 4 → CompletesWith (.atou32 rd rs1) s [.x rd] (fun t => (readX t rd).toNat = fromBE v.bytes)) ∧
    (v.len = 16 → Raises (.atou32 rd rs1) s .familyMismatch) ∧
    CompletesWith (.atou128 rd rs1) s [.x rd] (fun t =>
      (readX t rd).toNat = fromBE (if v.len = 16 then v.bytes else mappedHead ++ v.bytes)) ∧
    CompletesWith (.atou128c rd rs1) s [.x rd] (fun t => (readX t rd).toNat = fromBE v.bytes) ∧
    (idx.toNat < v.len → CompletesWith (.abyte rd rs1 idx) s [.x rd]
      (fun t => (readX t rd).toNat = (v.bytes.reverse.getD idx.toNat 0).toNat)) ∧
    (v.len ≤ idx.toNat → Raises (.abyte rd rs1 idx) s .indexRange)

/-- 42_ip_value.md section 4: the three predicates of an address. -/
def Obligations.AddressPredicates : Prop :=
  ∀ (s : State) (rs1 : AReg) (v : IPAddr), readA s rs1 = .addr v →
    CompletesWith (.is4 rs1) s [.t] (fun t => t.t = decide (v.len = 4)) ∧
    CompletesWith (.is6 rs1) s [.t] (fun t => t.t = decide (v.len = 16)) ∧
    CompletesWith (.is4in6 rs1) s [.t] (fun t => t.t = decide (v.bytes.take 12 = mappedHead))

/-- 42_ip_value.md sections 6 and 7: logic byte by byte, addition modulo `2^(8n)` with `C` unchanged, and
`LengthMismatch` for operands of different length. -/
def Obligations.AddressLogicAndAdd : Prop :=
  ∀ (s : State) (rd rs1 rs2 : AReg) (u v : IPAddr), readA s rs1 = .addr u → readA s rs2 = .addr v →
    (u.len = v.len →
      CompletesWith (.aor rd rs1 rs2) s [.a rd]
        (fun t => HoldsBytes t rd (List.zipWith (fun x y => x ||| y) u.bytes v.bytes)) ∧
      CompletesWith (.aand rd rs1 rs2) s [.a rd]
        (fun t => HoldsBytes t rd (List.zipWith (fun x y => x &&& y) u.bytes v.bytes)) ∧
      CompletesWith (.axor rd rs1 rs2) s [.a rd]
        (fun t => HoldsBytes t rd (List.zipWith (fun x y => x ^^^ y) u.bytes v.bytes)) ∧
      CompletesWith (.aadd rd rs1 rs2) s [.a rd] (fun t =>
        HoldsBytes t rd (beBytes u.len ((fromBE u.bytes + fromBE v.bytes) % 2 ^ (8 * u.len))))) ∧
    (u.len ≠ v.len →
      Raises (.aor rd rs1 rs2) s .lengthMismatch ∧ Raises (.aand rd rs1 rs2) s .lengthMismatch ∧
      Raises (.axor rd rs1 rs2) s .lengthMismatch ∧ Raises (.aadd rd rs1 rs2) s .lengthMismatch) ∧
    CompletesWith (.anot rd rs1) s [.a rd] (fun t => HoldsBytes t rd (u.bytes.map fun x => 0xff - x))

/-- 42_ip_value.md section 7: `ACMP` compares by number within a length and puts every 4-byte address before every
16-byte one. -/
def Obligations.AddressCompare : Prop :=
  ∀ (s : State) (rs1 rs2 : AReg) (u v : IPAddr), readA s rs1 = .addr u → readA s rs2 = .addr v →
    CompletesWith (.acmp rs1 rs2) s [.cc] (fun t =>
      (t.cc = .eq ↔ u = v) ∧
      (t.cc = .lt ↔ u.len < v.len ∨ (u.len = v.len ∧ fromBE u.bytes < fromBE v.bytes)) ∧
      (t.cc = .gt ↔ v.len < u.len ∨ (u.len = v.len ∧ fromBE v.bytes < fromBE u.bytes)))

/-- 42_ip_value.md section 1 and 10_state.md section 3: a command that reads an `a` register holding `Uninit`
or a `p` register never written raises `UninitIP`, whatever else would be wrong with its operands. -/
def Obligations.UninitOperandsTrap : Prop :=
  ∀ (i : Instr) (s : State), i.wf = true →
    ((∃ r ∈ addressOperands i, readA s r = .uninit) ∨
      (∃ r, prefixOperand i = some r ∧ (readP s r).addr = .uninit)) →
    Raises i s .uninitIP

/-! ### Prefixes -/

/-- 43_prefix.md section 2: `IPPFX` keeps the length, keeps the top `bits` bits and clears the rest; `PrefixRange`
where the address has fewer bits; and the two accessors read what a `p` register holds. -/
def Obligations.PrefixFactoryAndAccessors : Prop :=
  (∀ (s : State) (rd : PReg) (rs1 : AReg) (bits : Imm8) (v : IPAddr), readA s rs1 = .addr v →
    (bits.toNat ≤ 8 * v.len → CompletesWith (.ippfx rd rs1 bits) s [.p rd] (fun t =>
      (readP t rd).bits.val = bits.toNat ∧ ∃ A, (readP t rd).addr = .addr A ∧ A.family = v.family ∧
        ∀ j, A.num.getLsbD j = (decide (8 * v.len - bits.toNat ≤ j) && v.num.getLsbD j))) ∧
    (8 * v.len < bits.toNat → Raises (.ippfx rd rs1 bits) s .prefixRange)) ∧
  (∀ (s : State) (ad : AReg) (xd : XReg) (rs1 : PReg) (A : IPAddr), (readP s rs1).addr = .addr A →
    CompletesWith (.ippaddr ad rs1) s [.a ad] (fun t => readA t ad = .addr A) ∧
    CompletesWith (.ippbits xd rs1) s [.x xd] (fun t => (readX t xd).toNat = (readP s rs1).bits.val))

/-- 43_prefix.md section 2: `IPCONT` says whether the address has the prefix's length and its top bits; a prefix
longer than the address raises `PrefixRange`, and a shorter one of the other length contains nothing. The premise is
10_state.md R22, which every step keeps. -/
def Obligations.PrefixContainment : Prop :=
  ∀ (s : State) (rs1 : PReg) (rs2 : AReg) (v : IPAddr), (readP s rs1).valid → readA s rs2 = .addr v →
    (EntryContains s v rs1 → CompletesWith (.ipcont rs1 rs2) s [.t] (fun t => t.t = true)) ∧
    (EntryMisses s v rs1 → CompletesWith (.ipcont rs1 rs2) s [.t] (fun t => t.t = false)) ∧
    (∀ cause, EntryRaises s v rs1 cause → Raises (.ipcont rs1 rs2) s cause)

/-- 43_prefix.md section 2: `IPCONTL` scans the selected registers in ascending order; the first that contains the
address ends the scan with 1, the first that raises ends it with its cause, and where all miss the result is 0. -/
def Obligations.PrefixListScan : Prop :=
  ∀ (s : State) (rs1 : AReg) (mask : Imm16) (v : IPAddr), (∀ r, (readP s r).valid) → readA s rs1 = .addr v →
    ((∀ j < 16, mask.getLsbD j = true → EntryMisses s v (BitVec.ofNat 4 j)) →
      CompletesWith (.ipcontl rs1 mask) s [.t] (fun t => t.t = false)) ∧
    (∀ k < 16, mask.getLsbD k = true →
      (∀ j < k, mask.getLsbD j = true → EntryMisses s v (BitVec.ofNat 4 j)) →
      (EntryContains s v (BitVec.ofNat 4 k) →
        CompletesWith (.ipcontl rs1 mask) s [.t] (fun t => t.t = true)) ∧
      (∀ cause, EntryRaises s v (BitVec.ofNat 4 k) cause → Raises (.ipcontl rs1 mask) s cause))

/-- 43_prefix.md section 3: construction of a Ref prefix with `PrefixRange` above 128, its accessors, and the two
containment commands. -/
def Obligations.RefPrefixes : Prop :=
  ∀ (s : State) (qd qs : QReg) (xd xs : XReg) (bits : Imm8) (mask : Imm16),
    (bits.toNat ≤ 128 → CompletesWith (.rpfx qd xs bits) s [.q qd] (fun t =>
      (readQ t qd).bits.val = bits.toNat ∧
      ∀ j < 128, (readQ t qd).ref.getLsbD j = (decide (128 - bits.toNat ≤ j) && (readX s xs).getLsbD j))) ∧
    (128 < bits.toNat → Raises (.rpfx qd xs bits) s .prefixRange) ∧
    CompletesWith (.rpref xd qs) s [.x xd] (fun t => readX t xd = (readQ s qs).ref) ∧
    CompletesWith (.rpbits xd qs) s [.x xd] (fun t => (readX t xd).toNat = (readQ s qs).bits.val) ∧
    ((∀ r, (readQ s r).valid) →
      CompletesWith (.rpcont qs xs) s [.t]
        (fun t => t.t = true ↔ RefTopBitsAgree (readQ s qs) (readX s xs)) ∧
      CompletesWith (.rpcontl xs mask) s [.t] (fun t => t.t = true ↔
        ∃ j < 16, mask.getLsbD j = true ∧ RefTopBitsAgree (readQ s (BitVec.ofNat 4 j)) (readX s xs)))

/-! ### The subnet iterator -/

/-- 44_subnets.md section 2: `SUBINIT` of a prefix `(A, k)` latches base and `l` where `l < 64` and the children fit
the address, and otherwise stops the iterator and keeps its other fields. -/
def Obligations.SubinitOutcome : Prop :=
  ∀ (s : State) (rs1 : PReg) (l : Imm8) (A : IPAddr), (readP s rs1).addr = .addr A →
    (l.toNat < 64 ∧ (readP s rs1).bits.val + l.toNat ≤ 8 * A.len →
      CompletesWith (.subinit rs1 l) s [.it, .ok] (fun t => t.ok = true ∧ t.it.active = true ∧
        t.it.base = readP s rs1 ∧ t.it.l.toNat = l.toNat ∧ t.it.idx = 0)) ∧
    (64 ≤ l.toNat ∨ 8 * A.len < (readP s rs1).bits.val + l.toNat →
      CompletesWith (.subinit rs1 l) s [.it, .ok] (fun t => t.ok = false ∧ t.it = { s.it with active := false }))

/-- 44_subnets.md section 2: `SUBNEXT` on an inactive iterator, on an exhausted one, and where a child is left. The
premise is 10_state.md R38, which every step keeps. -/
def Obligations.SubnextOutcome : Prop :=
  ∀ (s : State) (rd : PReg), s.it.valid →
    (s.it.active = false → CompletesWith (.subnext rd) s [.ok] (fun t => t.ok = false)) ∧
    (s.it.active = true → s.it.idx.toNat = 2 ^ s.it.l.toNat →
      CompletesWith (.subnext rd) s [.it, .ok] (fun t => t.ok = false ∧ t.it = { s.it with active := false })) ∧
    (∀ A, s.it.active = true → s.it.idx.toNat < 2 ^ s.it.l.toNat → s.it.base.addr = .addr A →
      CompletesWith (.subnext rd) s [.p rd, .it, .ok] (fun t => t.ok = true ∧
        t.it = { s.it with idx := t.it.idx } ∧ t.it.idx.toNat = s.it.idx.toNat + 1 ∧
        (readP t rd).bits.val = s.it.base.bits.val + s.it.l.toNat ∧
        ∃ S, (readP t rd).addr = .addr S ∧ S.family = A.family ∧
          S.num.toNat = A.num.toNat +
            s.it.idx.toNat * 2 ^ (8 * A.len - s.it.base.bits.val - s.it.l.toNat)))

/-- 44_subnets.md section 2: after a successful `SUBINIT`, the first `2^l` `SUBNEXT` commands deliver the children
with indices 0, 1, 2 and so on, each into the register it names, and the one after the last delivers nothing and
stops the iterator. -/
def Obligations.SubnetsEnumerated : Prop :=
  ∀ (s : State) (rs1 : PReg) (l : Imm8) (A : IPAddr) (rds : List PReg) (rd : PReg),
    (readP s rs1).addr = .addr A → l.toNat < 64 → (readP s rs1).bits.val + l.toNat ≤ 8 * A.len →
    (rds.length < 2 ^ l.toNat →
      ∃ t, execAll (.subinit rs1 l :: (rds.map fun r => Instr.subnext r) ++ [.subnext rd]) s = .next t ∧
        readP t rd = child A (readP s rs1).bits.val l.toNat rds.length ∧ t.ok = true ∧ t.it.active = true ∧
        t.it.idx.toNat = rds.length + 1) ∧
    (rds.length = 2 ^ l.toNat →
      ∃ t u, execAll (.subinit rs1 l :: rds.map fun r => Instr.subnext r) s = .next t ∧
        exec (.subnext rd) t = .next u ∧ u.ok = false ∧ u.it.active = false ∧ readP u rd = readP t rd)

/-- 44_subnets.md R294: the children of a prefix `(A, k)` have length `k + l`, ascend by `2^(W-k-l)`, and are each
contained in the prefix; an address of the prefix's length is in child `i` exactly when it is in the prefix and has
`i` in the `l` bits after the first `k`, so the children are disjoint and together make up the prefix. -/
def Obligations.SubnetsPartition : Prop :=
  ∀ (A : IPAddr) (k : Fin 129) (l : Nat), IPPfx.valid { addr := .addr A, bits := k } → l < 64 →
    k.val + l ≤ 8 * A.len →
    ∃ S : Nat → IPAddr,
      (∀ i < 2 ^ l, child A k.val l i = { addr := .addr (S i), bits := Fin.ofNat 129 (k.val + l) } ∧
        (child A k.val l i).bits.val = k.val + l ∧ (S i).len = A.len ∧
        (S i).num.toNat = A.num.toNat + i * 2 ^ (8 * A.len - k.val - l) ∧
        containsIP A k.val (S i) = .ok true ∧
        ∀ v : IPAddr, v.len = A.len →
          (containsIP (S i) (k.val + l) v = .ok true ↔
            containsIP A k.val v = .ok true ∧ v.num.toNat / 2 ^ (8 * A.len - k.val - l) % 2 ^ l = i)) ∧
      (∀ i j, i < j → j < 2 ^ l → (S i).num.toNat < (S j).num.toNat) ∧
      (∀ i j, i < 2 ^ l → j < 2 ^ l → i ≠ j → ∀ v : IPAddr, v.len = A.len →
        ¬ (containsIP (S i) (k.val + l) v = .ok true ∧ containsIP (S j) (k.val + l) v = .ok true)) ∧
      (∀ v : IPAddr, v.len = A.len →
        (containsIP A k.val v = .ok true ↔ ∃ i < 2 ^ l, containsIP (S i) (k.val + l) v = .ok true))

/-! ### The record codec -/

/-- 45_addrrec_codec.md section 4: the size of a record, from the lengths in `LENCFG` (`BadLength` where one of them
is neither 4 nor 16) and from two addresses. -/
def Obligations.RecordLengths : Prop :=
  ∀ (s : State) (rd : XReg) (rs1 rs3 : AReg) (fmt : Imm8), fmt.toNat < 2 →
    (let n := (s.lenCfg.extractLsb' 0 8).toNat
     let m := (s.lenCfg.extractLsb' 8 8).toNat
     ((n = 4 ∨ n = 16) → (m = 4 ∨ m = 16) → CompletesWith (.elen rd fmt) s [.x rd]
       (fun t => (readX t rd).toNat = 4 * fmt.toNat + 2 * n + m + 16)) ∧
     (¬ ((n = 4 ∨ n = 16) ∧ (m = 4 ∨ m = 16)) → Raises (.elen rd fmt) s .badLength)) ∧
    (∀ ea gw, readA s rs1 = .addr ea → readA s rs3 = .addr gw →
      CompletesWith (.elenof rd rs1 rs3 fmt) s [.x rd]
        (fun t => (readX t rd).toNat = 4 * fmt.toNat + 2 * ea.len + gw.len + 16))

/-- 45_addrrec_codec.md R313, R316 and R325, sections 2 and 3: what the two encoders write, where, and the length they leave in `RLEN`;
`RecFamily` for `EA` and `IP` of different length, then `BufRange` past the end of `BUF`. -/
def Obligations.Encoders : Prop :=
  ∀ (s : State) (rd : XReg) (rs1 rs2 rs3 : AReg) (off : Imm8) (ea ip gw : IPAddr), s.buf.wf →
    readA s rs1 = .addr ea → readA s rs2 = .addr ip → readA s rs3 = .addr gw →
    let body := ea.bytes ++ ip.bytes ++ gw.bytes ++ beBytes 16 (readX s rd).toNat
    let version := fun n : Nat => if n = 4 then 4 else 6
    let header := [version ea.len, ea.len, version gw.len, gw.len].map (BitVec.ofNat 8)
    let L := 2 * ea.len + gw.len + 16
    (ea.len ≠ ip.len →
      Raises (.encLeg rd rs1 rs2 rs3 off) s .recFamily ∧ Raises (.encCur rd rs1 rs2 rs3 off) s .recFamily) ∧
    (ea.len = ip.len → off.toNat + L ≤ 256 →
      CompletesWith (.encLeg rd rs1 rs2 rs3 off) s (.rlen :: bytesAt off.toNat L)
        (fun t => t.rlen.toNat = L ∧ t.buf.readBytes off.toNat L = body)) ∧
    (ea.len = ip.len → 256 < off.toNat + L → Raises (.encLeg rd rs1 rs2 rs3 off) s .bufRange) ∧
    (ea.len = ip.len → off.toNat + (4 + L) ≤ 256 →
      CompletesWith (.encCur rd rs1 rs2 rs3 off) s (.rlen :: bytesAt off.toNat (4 + L))
        (fun t => t.rlen.toNat = 4 + L ∧ t.buf.readBytes off.toNat (4 + L) = header ++ body)) ∧
    (ea.len = ip.len → 256 < off.toNat + (4 + L) → Raises (.encCur rd rs1 rs2 rs3 off) s .bufRange)

/-- 45_addrrec_codec.md R318, section 3: `CHK.CUR` on the window of `BUFLEN` bytes at its offset; a window past the end of
`BUF` raises `BufRange`. -/
def Obligations.CheckOutcome : Prop :=
  ∀ (s : State) (off : Imm8),
    let W := s.buf.readBytes off.toNat s.bufLen.toNat
    (256 < off.toNat + s.bufLen.toNat → Raises (.chkCur off) s .bufRange) ∧
    (off.toNat + s.bufLen.toNat ≤ 256 →
      (∀ n m, RecordChecks W n m → CompletesWith (.chkCur off) s [.ok, .rlen]
        (fun t => t.ok = true ∧ t.rlen.toNat = 4 + 2 * n + m + 16)) ∧
      ((∀ n m, ¬ RecordChecks W n m) → CompletesWith (.chkCur off) s [.ok, .rlen]
        (fun t => t.ok = false ∧ t.rlen = 0)))

/-- 45_addrrec_codec.md sections 2 and 3: both decoders. A window that holds no record is not-ok and writes `OK` and
`RLEN` alone; one that does leaves the record in the four registers. `DEC.LEG` raises `BadLength` before
`BufRange`. -/
def Obligations.Decoders : Prop :=
  ∀ (s : State) (rd : XReg) (rs1 rs2 rs3 : AReg) (off : Imm8),
    let W := s.buf.readBytes off.toNat s.bufLen.toNat
    let n := (s.lenCfg.extractLsb' 0 8).toNat
    let m := (s.lenCfg.extractLsb' 8 8).toNat
    (¬ ((n = 4 ∨ n = 16) ∧ (m = 4 ∨ m = 16)) → Raises (.decLeg rd rs1 rs2 rs3 off) s .badLength) ∧
    ((n = 4 ∨ n = 16) → (m = 4 ∨ m = 16) →
      (256 < off.toNat + s.bufLen.toNat → Raises (.decLeg rd rs1 rs2 rs3 off) s .bufRange) ∧
      (off.toNat + s.bufLen.toNat ≤ 256 → s.bufLen.toNat < 2 * n + m + 16 →
        CompletesWith (.decLeg rd rs1 rs2 rs3 off) s [.ok, .rlen] (fun t => t.ok = false ∧ t.rlen = 0)) ∧
      (off.toNat + s.bufLen.toNat ≤ 256 → 2 * n + m + 16 ≤ s.bufLen.toNat →
        CompletesWith (.decLeg rd rs1 rs2 rs3 off) s [.x rd, .a rs1, .a rs2, .a rs3, .ok, .rlen] (fun t =>
          t.ok = true ∧ t.rlen.toNat = 2 * n + m + 16 ∧ HoldsRecord t rd rs1 rs2 rs3 W 0 n m))) ∧
    (256 < off.toNat + s.bufLen.toNat → Raises (.decCur rd rs1 rs2 rs3 off) s .bufRange) ∧
    (off.toNat + s.bufLen.toNat ≤ 256 →
      ((∀ n m, ¬ RecordChecks W n m) →
        CompletesWith (.decCur rd rs1 rs2 rs3 off) s [.ok, .rlen] (fun t => t.ok = false ∧ t.rlen = 0)) ∧
      (∀ n m, RecordChecks W n m →
        CompletesWith (.decCur rd rs1 rs2 rs3 off) s [.x rd, .a rs1, .a rs2, .a rs3, .ok, .rlen] (fun t =>
          t.ok = true ∧ t.rlen.toNat = 4 + 2 * n + m + 16 ∧ HoldsRecord t rd rs1 rs2 rs3 W 4 n m)))

/-- 45_addrrec_codec.md section 5: a record encoded at an offset and decoded from any window that holds it comes back
whole, in both formats. -/
def Obligations.RecordRoundTrip : Prop :=
  ∀ (s : State) (rd xe : XReg) (rs1 rs2 rs3 at1 at2 at3 : AReg) (off : Imm8) (ea ip gw : IPAddr) (B : Imm16),
    s.buf.wf → readA s rs1 = .addr ea → readA s rs2 = .addr ip → readA s rs3 = .addr gw → ea.len = ip.len →
    at1 ≠ at2 → at1 ≠ at3 → at2 ≠ at3 → off.toNat + B.toNat ≤ 256 →
    let back := fun (t : State) (L : Nat) => t.ok = true ∧ t.rlen.toNat = L ∧ readA t at1 = .addr ea ∧
      readA t at2 = .addr ip ∧ readA t at3 = .addr gw ∧ readX t xe = readX s rd
    (4 + 2 * ea.len + gw.len + 16 ≤ B.toNat →
      ∃ t, execAll [.encCur rd rs1 rs2 rs3 off, .csrwi 1 B, .decCur xe at1 at2 at3 off] s = .next t ∧
        back t (4 + 2 * ea.len + gw.len + 16)) ∧
    (2 * ea.len + gw.len + 16 ≤ B.toNat →
      ∃ t, execAll [.encLeg rd rs1 rs2 rs3 off, .csrwi 1 B,
            .csrwi 2 (BitVec.ofNat 16 (gw.len * 256 + ea.len)), .decLeg xe at1 at2 at3 off] s = .next t ∧
        back t (2 * ea.len + gw.len + 16))
end

