-- ==== Sys2Proof/Laws/State.lean ====
section
/-! SUPPORT. For every update of the state and every field or register read: what it is after the update. All true
by `rfl`. What a register file reads after its own write is in Laws/Ops.lean. -/

namespace Sys2Proof.Machine

/-! ### `writeX` -/

@[simp] theorem writeX_a (s : State) (i : XReg) (v : U128) : (writeX s i v).a = s.a := rfl
@[simp] theorem writeX_p (s : State) (i : XReg) (v : U128) : (writeX s i v).p = s.p := rfl
@[simp] theorem writeX_q (s : State) (i : XReg) (v : U128) : (writeX s i v).q = s.q := rfl
@[simp] theorem writeX_c (s : State) (i : XReg) (v : U128) : (writeX s i v).c = s.c := rfl
@[simp] theorem writeX_t (s : State) (i : XReg) (v : U128) : (writeX s i v).t = s.t := rfl
@[simp] theorem writeX_ok (s : State) (i : XReg) (v : U128) : (writeX s i v).ok = s.ok := rfl
@[simp] theorem writeX_cc (s : State) (i : XReg) (v : U128) : (writeX s i v).cc = s.cc := rfl
@[simp] theorem writeX_fault (s : State) (i : XReg) (v : U128) : (writeX s i v).fault = s.fault := rfl
@[simp] theorem writeX_fcause (s : State) (i : XReg) (v : U128) : (writeX s i v).fcause = s.fcause := rfl
@[simp] theorem writeX_fcmd (s : State) (i : XReg) (v : U128) : (writeX s i v).fcmd = s.fcmd := rfl
@[simp] theorem writeX_bufLen (s : State) (i : XReg) (v : U128) : (writeX s i v).bufLen = s.bufLen := rfl
@[simp] theorem writeX_lenCfg (s : State) (i : XReg) (v : U128) : (writeX s i v).lenCfg = s.lenCfg := rfl
@[simp] theorem writeX_rlen (s : State) (i : XReg) (v : U128) : (writeX s i v).rlen = s.rlen := rfl
@[simp] theorem writeX_it (s : State) (i : XReg) (v : U128) : (writeX s i v).it = s.it := rfl
@[simp] theorem writeX_buf (s : State) (i : XReg) (v : U128) : (writeX s i v).buf = s.buf := rfl
@[simp] theorem writeX_pending (s : State) (i : XReg) (v : U128) : (writeX s i v).pending = s.pending := rfl
@[simp] theorem writeX_reply (s : State) (i : XReg) (v : U128) : (writeX s i v).reply = s.reply := rfl
@[simp] theorem readA_writeX (s : State) (i : XReg) (v : U128) (k : AReg) :
    readA (writeX s i v) k = readA s k := rfl
@[simp] theorem readP_writeX (s : State) (i : XReg) (v : U128) (k : PReg) :
    readP (writeX s i v) k = readP s k := rfl
@[simp] theorem readQ_writeX (s : State) (i : XReg) (v : U128) (k : QReg) :
    readQ (writeX s i v) k = readQ s k := rfl

/-! ### `writeA` -/

@[simp] theorem writeA_x (s : State) (i : AReg) (v : IPVal) : (writeA s i v).x = s.x := rfl
@[simp] theorem writeA_p (s : State) (i : AReg) (v : IPVal) : (writeA s i v).p = s.p := rfl
@[simp] theorem writeA_q (s : State) (i : AReg) (v : IPVal) : (writeA s i v).q = s.q := rfl
@[simp] theorem writeA_c (s : State) (i : AReg) (v : IPVal) : (writeA s i v).c = s.c := rfl
@[simp] theorem writeA_t (s : State) (i : AReg) (v : IPVal) : (writeA s i v).t = s.t := rfl
@[simp] theorem writeA_ok (s : State) (i : AReg) (v : IPVal) : (writeA s i v).ok = s.ok := rfl
@[simp] theorem writeA_cc (s : State) (i : AReg) (v : IPVal) : (writeA s i v).cc = s.cc := rfl
@[simp] theorem writeA_fault (s : State) (i : AReg) (v : IPVal) : (writeA s i v).fault = s.fault := rfl
@[simp] theorem writeA_fcause (s : State) (i : AReg) (v : IPVal) : (writeA s i v).fcause = s.fcause := rfl
@[simp] theorem writeA_fcmd (s : State) (i : AReg) (v : IPVal) : (writeA s i v).fcmd = s.fcmd := rfl
@[simp] theorem writeA_bufLen (s : State) (i : AReg) (v : IPVal) : (writeA s i v).bufLen = s.bufLen := rfl
@[simp] theorem writeA_lenCfg (s : State) (i : AReg) (v : IPVal) : (writeA s i v).lenCfg = s.lenCfg := rfl
@[simp] theorem writeA_rlen (s : State) (i : AReg) (v : IPVal) : (writeA s i v).rlen = s.rlen := rfl
@[simp] theorem writeA_it (s : State) (i : AReg) (v : IPVal) : (writeA s i v).it = s.it := rfl
@[simp] theorem writeA_buf (s : State) (i : AReg) (v : IPVal) : (writeA s i v).buf = s.buf := rfl
@[simp] theorem writeA_pending (s : State) (i : AReg) (v : IPVal) : (writeA s i v).pending = s.pending := rfl
@[simp] theorem writeA_reply (s : State) (i : AReg) (v : IPVal) : (writeA s i v).reply = s.reply := rfl
@[simp] theorem readX_writeA (s : State) (i : AReg) (v : IPVal) (k : XReg) :
    readX (writeA s i v) k = readX s k := rfl
@[simp] theorem readP_writeA (s : State) (i : AReg) (v : IPVal) (k : PReg) :
    readP (writeA s i v) k = readP s k := rfl
@[simp] theorem readQ_writeA (s : State) (i : AReg) (v : IPVal) (k : QReg) :
    readQ (writeA s i v) k = readQ s k := rfl

/-! ### `writeP` -/

@[simp] theorem writeP_x (s : State) (i : PReg) (v : IPPfx) : (writeP s i v).x = s.x := rfl
@[simp] theorem writeP_a (s : State) (i : PReg) (v : IPPfx) : (writeP s i v).a = s.a := rfl
@[simp] theorem writeP_q (s : State) (i : PReg) (v : IPPfx) : (writeP s i v).q = s.q := rfl
@[simp] theorem writeP_c (s : State) (i : PReg) (v : IPPfx) : (writeP s i v).c = s.c := rfl
@[simp] theorem writeP_t (s : State) (i : PReg) (v : IPPfx) : (writeP s i v).t = s.t := rfl
@[simp] theorem writeP_ok (s : State) (i : PReg) (v : IPPfx) : (writeP s i v).ok = s.ok := rfl
@[simp] theorem writeP_cc (s : State) (i : PReg) (v : IPPfx) : (writeP s i v).cc = s.cc := rfl
@[simp] theorem writeP_fault (s : State) (i : PReg) (v : IPPfx) : (writeP s i v).fault = s.fault := rfl
@[simp] theorem writeP_fcause (s : State) (i : PReg) (v : IPPfx) : (writeP s i v).fcause = s.fcause := rfl
@[simp] theorem writeP_fcmd (s : State) (i : PReg) (v : IPPfx) : (writeP s i v).fcmd = s.fcmd := rfl
@[simp] theorem writeP_bufLen (s : State) (i : PReg) (v : IPPfx) : (writeP s i v).bufLen = s.bufLen := rfl
@[simp] theorem writeP_lenCfg (s : State) (i : PReg) (v : IPPfx) : (writeP s i v).lenCfg = s.lenCfg := rfl
@[simp] theorem writeP_rlen (s : State) (i : PReg) (v : IPPfx) : (writeP s i v).rlen = s.rlen := rfl
@[simp] theorem writeP_it (s : State) (i : PReg) (v : IPPfx) : (writeP s i v).it = s.it := rfl
@[simp] theorem writeP_buf (s : State) (i : PReg) (v : IPPfx) : (writeP s i v).buf = s.buf := rfl
@[simp] theorem writeP_pending (s : State) (i : PReg) (v : IPPfx) : (writeP s i v).pending = s.pending := rfl
@[simp] theorem writeP_reply (s : State) (i : PReg) (v : IPPfx) : (writeP s i v).reply = s.reply := rfl
@[simp] theorem readX_writeP (s : State) (i : PReg) (v : IPPfx) (k : XReg) :
    readX (writeP s i v) k = readX s k := rfl
@[simp] theorem readA_writeP (s : State) (i : PReg) (v : IPPfx) (k : AReg) :
    readA (writeP s i v) k = readA s k := rfl
@[simp] theorem readQ_writeP (s : State) (i : PReg) (v : IPPfx) (k : QReg) :
    readQ (writeP s i v) k = readQ s k := rfl

/-! ### `writeQ` -/

@[simp] theorem writeQ_x (s : State) (i : QReg) (v : RefPfx) : (writeQ s i v).x = s.x := rfl
@[simp] theorem writeQ_a (s : State) (i : QReg) (v : RefPfx) : (writeQ s i v).a = s.a := rfl
@[simp] theorem writeQ_p (s : State) (i : QReg) (v : RefPfx) : (writeQ s i v).p = s.p := rfl
@[simp] theorem writeQ_c (s : State) (i : QReg) (v : RefPfx) : (writeQ s i v).c = s.c := rfl
@[simp] theorem writeQ_t (s : State) (i : QReg) (v : RefPfx) : (writeQ s i v).t = s.t := rfl
@[simp] theorem writeQ_ok (s : State) (i : QReg) (v : RefPfx) : (writeQ s i v).ok = s.ok := rfl
@[simp] theorem writeQ_cc (s : State) (i : QReg) (v : RefPfx) : (writeQ s i v).cc = s.cc := rfl
@[simp] theorem writeQ_fault (s : State) (i : QReg) (v : RefPfx) : (writeQ s i v).fault = s.fault := rfl
@[simp] theorem writeQ_fcause (s : State) (i : QReg) (v : RefPfx) : (writeQ s i v).fcause = s.fcause := rfl
@[simp] theorem writeQ_fcmd (s : State) (i : QReg) (v : RefPfx) : (writeQ s i v).fcmd = s.fcmd := rfl
@[simp] theorem writeQ_bufLen (s : State) (i : QReg) (v : RefPfx) : (writeQ s i v).bufLen = s.bufLen := rfl
@[simp] theorem writeQ_lenCfg (s : State) (i : QReg) (v : RefPfx) : (writeQ s i v).lenCfg = s.lenCfg := rfl
@[simp] theorem writeQ_rlen (s : State) (i : QReg) (v : RefPfx) : (writeQ s i v).rlen = s.rlen := rfl
@[simp] theorem writeQ_it (s : State) (i : QReg) (v : RefPfx) : (writeQ s i v).it = s.it := rfl
@[simp] theorem writeQ_buf (s : State) (i : QReg) (v : RefPfx) : (writeQ s i v).buf = s.buf := rfl
@[simp] theorem writeQ_pending (s : State) (i : QReg) (v : RefPfx) : (writeQ s i v).pending = s.pending := rfl
@[simp] theorem writeQ_reply (s : State) (i : QReg) (v : RefPfx) : (writeQ s i v).reply = s.reply := rfl
@[simp] theorem readX_writeQ (s : State) (i : QReg) (v : RefPfx) (k : XReg) :
    readX (writeQ s i v) k = readX s k := rfl
@[simp] theorem readA_writeQ (s : State) (i : QReg) (v : RefPfx) (k : AReg) :
    readA (writeQ s i v) k = readA s k := rfl
@[simp] theorem readP_writeQ (s : State) (i : QReg) (v : RefPfx) (k : PReg) :
    readP (writeQ s i v) k = readP s k := rfl

/-! ### `setC` -/

@[simp] theorem setC_x (s : State) (b : Bool) : (setC s b).x = s.x := rfl
@[simp] theorem setC_a (s : State) (b : Bool) : (setC s b).a = s.a := rfl
@[simp] theorem setC_p (s : State) (b : Bool) : (setC s b).p = s.p := rfl
@[simp] theorem setC_q (s : State) (b : Bool) : (setC s b).q = s.q := rfl
@[simp] theorem setC_c (s : State) (b : Bool) : (setC s b).c = b := rfl
@[simp] theorem setC_t (s : State) (b : Bool) : (setC s b).t = s.t := rfl
@[simp] theorem setC_ok (s : State) (b : Bool) : (setC s b).ok = s.ok := rfl
@[simp] theorem setC_cc (s : State) (b : Bool) : (setC s b).cc = s.cc := rfl
@[simp] theorem setC_fault (s : State) (b : Bool) : (setC s b).fault = s.fault := rfl
@[simp] theorem setC_fcause (s : State) (b : Bool) : (setC s b).fcause = s.fcause := rfl
@[simp] theorem setC_fcmd (s : State) (b : Bool) : (setC s b).fcmd = s.fcmd := rfl
@[simp] theorem setC_bufLen (s : State) (b : Bool) : (setC s b).bufLen = s.bufLen := rfl
@[simp] theorem setC_lenCfg (s : State) (b : Bool) : (setC s b).lenCfg = s.lenCfg := rfl
@[simp] theorem setC_rlen (s : State) (b : Bool) : (setC s b).rlen = s.rlen := rfl
@[simp] theorem setC_it (s : State) (b : Bool) : (setC s b).it = s.it := rfl
@[simp] theorem setC_buf (s : State) (b : Bool) : (setC s b).buf = s.buf := rfl
@[simp] theorem setC_pending (s : State) (b : Bool) : (setC s b).pending = s.pending := rfl
@[simp] theorem setC_reply (s : State) (b : Bool) : (setC s b).reply = s.reply := rfl
@[simp] theorem readX_setC (s : State) (b : Bool) (k : XReg) : readX (setC s b) k = readX s k := rfl
@[simp] theorem readA_setC (s : State) (b : Bool) (k : AReg) : readA (setC s b) k = readA s k := rfl
@[simp] theorem readP_setC (s : State) (b : Bool) (k : PReg) : readP (setC s b) k = readP s k := rfl
@[simp] theorem readQ_setC (s : State) (b : Bool) (k : QReg) : readQ (setC s b) k = readQ s k := rfl

/-! ### `setT` -/

@[simp] theorem setT_x (s : State) (b : Bool) : (setT s b).x = s.x := rfl
@[simp] theorem setT_a (s : State) (b : Bool) : (setT s b).a = s.a := rfl
@[simp] theorem setT_p (s : State) (b : Bool) : (setT s b).p = s.p := rfl
@[simp] theorem setT_q (s : State) (b : Bool) : (setT s b).q = s.q := rfl
@[simp] theorem setT_c (s : State) (b : Bool) : (setT s b).c = s.c := rfl
@[simp] theorem setT_t (s : State) (b : Bool) : (setT s b).t = b := rfl
@[simp] theorem setT_ok (s : State) (b : Bool) : (setT s b).ok = s.ok := rfl
@[simp] theorem setT_cc (s : State) (b : Bool) : (setT s b).cc = s.cc := rfl
@[simp] theorem setT_fault (s : State) (b : Bool) : (setT s b).fault = s.fault := rfl
@[simp] theorem setT_fcause (s : State) (b : Bool) : (setT s b).fcause = s.fcause := rfl
@[simp] theorem setT_fcmd (s : State) (b : Bool) : (setT s b).fcmd = s.fcmd := rfl
@[simp] theorem setT_bufLen (s : State) (b : Bool) : (setT s b).bufLen = s.bufLen := rfl
@[simp] theorem setT_lenCfg (s : State) (b : Bool) : (setT s b).lenCfg = s.lenCfg := rfl
@[simp] theorem setT_rlen (s : State) (b : Bool) : (setT s b).rlen = s.rlen := rfl
@[simp] theorem setT_it (s : State) (b : Bool) : (setT s b).it = s.it := rfl
@[simp] theorem setT_buf (s : State) (b : Bool) : (setT s b).buf = s.buf := rfl
@[simp] theorem setT_pending (s : State) (b : Bool) : (setT s b).pending = s.pending := rfl
@[simp] theorem setT_reply (s : State) (b : Bool) : (setT s b).reply = s.reply := rfl
@[simp] theorem readX_setT (s : State) (b : Bool) (k : XReg) : readX (setT s b) k = readX s k := rfl
@[simp] theorem readA_setT (s : State) (b : Bool) (k : AReg) : readA (setT s b) k = readA s k := rfl
@[simp] theorem readP_setT (s : State) (b : Bool) (k : PReg) : readP (setT s b) k = readP s k := rfl
@[simp] theorem readQ_setT (s : State) (b : Bool) (k : QReg) : readQ (setT s b) k = readQ s k := rfl

/-! ### `setOK` -/

@[simp] theorem setOK_x (s : State) (b : Bool) : (setOK s b).x = s.x := rfl
@[simp] theorem setOK_a (s : State) (b : Bool) : (setOK s b).a = s.a := rfl
@[simp] theorem setOK_p (s : State) (b : Bool) : (setOK s b).p = s.p := rfl
@[simp] theorem setOK_q (s : State) (b : Bool) : (setOK s b).q = s.q := rfl
@[simp] theorem setOK_c (s : State) (b : Bool) : (setOK s b).c = s.c := rfl
@[simp] theorem setOK_t (s : State) (b : Bool) : (setOK s b).t = s.t := rfl
@[simp] theorem setOK_ok (s : State) (b : Bool) : (setOK s b).ok = b := rfl
@[simp] theorem setOK_cc (s : State) (b : Bool) : (setOK s b).cc = s.cc := rfl
@[simp] theorem setOK_fault (s : State) (b : Bool) : (setOK s b).fault = s.fault := rfl
@[simp] theorem setOK_fcause (s : State) (b : Bool) : (setOK s b).fcause = s.fcause := rfl
@[simp] theorem setOK_fcmd (s : State) (b : Bool) : (setOK s b).fcmd = s.fcmd := rfl
@[simp] theorem setOK_bufLen (s : State) (b : Bool) : (setOK s b).bufLen = s.bufLen := rfl
@[simp] theorem setOK_lenCfg (s : State) (b : Bool) : (setOK s b).lenCfg = s.lenCfg := rfl
@[simp] theorem setOK_rlen (s : State) (b : Bool) : (setOK s b).rlen = s.rlen := rfl
@[simp] theorem setOK_it (s : State) (b : Bool) : (setOK s b).it = s.it := rfl
@[simp] theorem setOK_buf (s : State) (b : Bool) : (setOK s b).buf = s.buf := rfl
@[simp] theorem setOK_pending (s : State) (b : Bool) : (setOK s b).pending = s.pending := rfl
@[simp] theorem setOK_reply (s : State) (b : Bool) : (setOK s b).reply = s.reply := rfl
@[simp] theorem readX_setOK (s : State) (b : Bool) (k : XReg) : readX (setOK s b) k = readX s k := rfl
@[simp] theorem readA_setOK (s : State) (b : Bool) (k : AReg) : readA (setOK s b) k = readA s k := rfl
@[simp] theorem readP_setOK (s : State) (b : Bool) (k : PReg) : readP (setOK s b) k = readP s k := rfl
@[simp] theorem readQ_setOK (s : State) (b : Bool) (k : QReg) : readQ (setOK s b) k = readQ s k := rfl

/-! ### `setCC` -/

@[simp] theorem setCC_x (s : State) (r : CmpResult) : (setCC s r).x = s.x := rfl
@[simp] theorem setCC_a (s : State) (r : CmpResult) : (setCC s r).a = s.a := rfl
@[simp] theorem setCC_p (s : State) (r : CmpResult) : (setCC s r).p = s.p := rfl
@[simp] theorem setCC_q (s : State) (r : CmpResult) : (setCC s r).q = s.q := rfl
@[simp] theorem setCC_c (s : State) (r : CmpResult) : (setCC s r).c = s.c := rfl
@[simp] theorem setCC_t (s : State) (r : CmpResult) : (setCC s r).t = s.t := rfl
@[simp] theorem setCC_ok (s : State) (r : CmpResult) : (setCC s r).ok = s.ok := rfl
@[simp] theorem setCC_cc (s : State) (r : CmpResult) : (setCC s r).cc = r := rfl
@[simp] theorem setCC_fault (s : State) (r : CmpResult) : (setCC s r).fault = s.fault := rfl
@[simp] theorem setCC_fcause (s : State) (r : CmpResult) : (setCC s r).fcause = s.fcause := rfl
@[simp] theorem setCC_fcmd (s : State) (r : CmpResult) : (setCC s r).fcmd = s.fcmd := rfl
@[simp] theorem setCC_bufLen (s : State) (r : CmpResult) : (setCC s r).bufLen = s.bufLen := rfl
@[simp] theorem setCC_lenCfg (s : State) (r : CmpResult) : (setCC s r).lenCfg = s.lenCfg := rfl
@[simp] theorem setCC_rlen (s : State) (r : CmpResult) : (setCC s r).rlen = s.rlen := rfl
@[simp] theorem setCC_it (s : State) (r : CmpResult) : (setCC s r).it = s.it := rfl
@[simp] theorem setCC_buf (s : State) (r : CmpResult) : (setCC s r).buf = s.buf := rfl
@[simp] theorem setCC_pending (s : State) (r : CmpResult) : (setCC s r).pending = s.pending := rfl
@[simp] theorem setCC_reply (s : State) (r : CmpResult) : (setCC s r).reply = s.reply := rfl
@[simp] theorem readX_setCC (s : State) (r : CmpResult) (k : XReg) : readX (setCC s r) k = readX s k := rfl
@[simp] theorem readA_setCC (s : State) (r : CmpResult) (k : AReg) : readA (setCC s r) k = readA s k := rfl
@[simp] theorem readP_setCC (s : State) (r : CmpResult) (k : PReg) : readP (setCC s r) k = readP s k := rfl
@[simp] theorem readQ_setCC (s : State) (r : CmpResult) (k : QReg) : readQ (setCC s r) k = readQ s k := rfl

/-! ### `setBufLen` -/

@[simp] theorem setBufLen_x (s : State) (v : BitVec 9) : (setBufLen s v).x = s.x := rfl
@[simp] theorem setBufLen_a (s : State) (v : BitVec 9) : (setBufLen s v).a = s.a := rfl
@[simp] theorem setBufLen_p (s : State) (v : BitVec 9) : (setBufLen s v).p = s.p := rfl
@[simp] theorem setBufLen_q (s : State) (v : BitVec 9) : (setBufLen s v).q = s.q := rfl
@[simp] theorem setBufLen_c (s : State) (v : BitVec 9) : (setBufLen s v).c = s.c := rfl
@[simp] theorem setBufLen_t (s : State) (v : BitVec 9) : (setBufLen s v).t = s.t := rfl
@[simp] theorem setBufLen_ok (s : State) (v : BitVec 9) : (setBufLen s v).ok = s.ok := rfl
@[simp] theorem setBufLen_cc (s : State) (v : BitVec 9) : (setBufLen s v).cc = s.cc := rfl
@[simp] theorem setBufLen_fault (s : State) (v : BitVec 9) : (setBufLen s v).fault = s.fault := rfl
@[simp] theorem setBufLen_fcause (s : State) (v : BitVec 9) : (setBufLen s v).fcause = s.fcause := rfl
@[simp] theorem setBufLen_fcmd (s : State) (v : BitVec 9) : (setBufLen s v).fcmd = s.fcmd := rfl
@[simp] theorem setBufLen_bufLen (s : State) (v : BitVec 9) : (setBufLen s v).bufLen = v := rfl
@[simp] theorem setBufLen_lenCfg (s : State) (v : BitVec 9) : (setBufLen s v).lenCfg = s.lenCfg := rfl
@[simp] theorem setBufLen_rlen (s : State) (v : BitVec 9) : (setBufLen s v).rlen = s.rlen := rfl
@[simp] theorem setBufLen_it (s : State) (v : BitVec 9) : (setBufLen s v).it = s.it := rfl
@[simp] theorem setBufLen_buf (s : State) (v : BitVec 9) : (setBufLen s v).buf = s.buf := rfl
@[simp] theorem setBufLen_pending (s : State) (v : BitVec 9) : (setBufLen s v).pending = s.pending := rfl
@[simp] theorem setBufLen_reply (s : State) (v : BitVec 9) : (setBufLen s v).reply = s.reply := rfl
@[simp] theorem readX_setBufLen (s : State) (v : BitVec 9) (k : XReg) : readX (setBufLen s v) k = readX s k := rfl
@[simp] theorem readA_setBufLen (s : State) (v : BitVec 9) (k : AReg) : readA (setBufLen s v) k = readA s k := rfl
@[simp] theorem readP_setBufLen (s : State) (v : BitVec 9) (k : PReg) : readP (setBufLen s v) k = readP s k := rfl
@[simp] theorem readQ_setBufLen (s : State) (v : BitVec 9) (k : QReg) : readQ (setBufLen s v) k = readQ s k := rfl

/-! ### `setLenCfg` -/

@[simp] theorem setLenCfg_x (s : State) (v : BitVec 16) : (setLenCfg s v).x = s.x := rfl
@[simp] theorem setLenCfg_a (s : State) (v : BitVec 16) : (setLenCfg s v).a = s.a := rfl
@[simp] theorem setLenCfg_p (s : State) (v : BitVec 16) : (setLenCfg s v).p = s.p := rfl
@[simp] theorem setLenCfg_q (s : State) (v : BitVec 16) : (setLenCfg s v).q = s.q := rfl
@[simp] theorem setLenCfg_c (s : State) (v : BitVec 16) : (setLenCfg s v).c = s.c := rfl
@[simp] theorem setLenCfg_t (s : State) (v : BitVec 16) : (setLenCfg s v).t = s.t := rfl
@[simp] theorem setLenCfg_ok (s : State) (v : BitVec 16) : (setLenCfg s v).ok = s.ok := rfl
@[simp] theorem setLenCfg_cc (s : State) (v : BitVec 16) : (setLenCfg s v).cc = s.cc := rfl
@[simp] theorem setLenCfg_fault (s : State) (v : BitVec 16) : (setLenCfg s v).fault = s.fault := rfl
@[simp] theorem setLenCfg_fcause (s : State) (v : BitVec 16) : (setLenCfg s v).fcause = s.fcause := rfl
@[simp] theorem setLenCfg_fcmd (s : State) (v : BitVec 16) : (setLenCfg s v).fcmd = s.fcmd := rfl
@[simp] theorem setLenCfg_bufLen (s : State) (v : BitVec 16) : (setLenCfg s v).bufLen = s.bufLen := rfl
@[simp] theorem setLenCfg_lenCfg (s : State) (v : BitVec 16) : (setLenCfg s v).lenCfg = v := rfl
@[simp] theorem setLenCfg_rlen (s : State) (v : BitVec 16) : (setLenCfg s v).rlen = s.rlen := rfl
@[simp] theorem setLenCfg_it (s : State) (v : BitVec 16) : (setLenCfg s v).it = s.it := rfl
@[simp] theorem setLenCfg_buf (s : State) (v : BitVec 16) : (setLenCfg s v).buf = s.buf := rfl
@[simp] theorem setLenCfg_pending (s : State) (v : BitVec 16) : (setLenCfg s v).pending = s.pending := rfl
@[simp] theorem setLenCfg_reply (s : State) (v : BitVec 16) : (setLenCfg s v).reply = s.reply := rfl
@[simp] theorem readX_setLenCfg (s : State) (v : BitVec 16) (k : XReg) : readX (setLenCfg s v) k = readX s k := rfl
@[simp] theorem readA_setLenCfg (s : State) (v : BitVec 16) (k : AReg) : readA (setLenCfg s v) k = readA s k := rfl
@[simp] theorem readP_setLenCfg (s : State) (v : BitVec 16) (k : PReg) : readP (setLenCfg s v) k = readP s k := rfl
@[simp] theorem readQ_setLenCfg (s : State) (v : BitVec 16) (k : QReg) : readQ (setLenCfg s v) k = readQ s k := rfl

/-! ### `setRLen` -/

@[simp] theorem setRLen_x (s : State) (n : Nat) : (setRLen s n).x = s.x := rfl
@[simp] theorem setRLen_a (s : State) (n : Nat) : (setRLen s n).a = s.a := rfl
@[simp] theorem setRLen_p (s : State) (n : Nat) : (setRLen s n).p = s.p := rfl
@[simp] theorem setRLen_q (s : State) (n : Nat) : (setRLen s n).q = s.q := rfl
@[simp] theorem setRLen_c (s : State) (n : Nat) : (setRLen s n).c = s.c := rfl
@[simp] theorem setRLen_t (s : State) (n : Nat) : (setRLen s n).t = s.t := rfl
@[simp] theorem setRLen_ok (s : State) (n : Nat) : (setRLen s n).ok = s.ok := rfl
@[simp] theorem setRLen_cc (s : State) (n : Nat) : (setRLen s n).cc = s.cc := rfl
@[simp] theorem setRLen_fault (s : State) (n : Nat) : (setRLen s n).fault = s.fault := rfl
@[simp] theorem setRLen_fcause (s : State) (n : Nat) : (setRLen s n).fcause = s.fcause := rfl
@[simp] theorem setRLen_fcmd (s : State) (n : Nat) : (setRLen s n).fcmd = s.fcmd := rfl
@[simp] theorem setRLen_bufLen (s : State) (n : Nat) : (setRLen s n).bufLen = s.bufLen := rfl
@[simp] theorem setRLen_lenCfg (s : State) (n : Nat) : (setRLen s n).lenCfg = s.lenCfg := rfl
@[simp] theorem setRLen_rlen (s : State) (n : Nat) : (setRLen s n).rlen = BitVec.ofNat 9 n := rfl
@[simp] theorem setRLen_it (s : State) (n : Nat) : (setRLen s n).it = s.it := rfl
@[simp] theorem setRLen_buf (s : State) (n : Nat) : (setRLen s n).buf = s.buf := rfl
@[simp] theorem setRLen_pending (s : State) (n : Nat) : (setRLen s n).pending = s.pending := rfl
@[simp] theorem setRLen_reply (s : State) (n : Nat) : (setRLen s n).reply = s.reply := rfl
@[simp] theorem readX_setRLen (s : State) (n : Nat) (k : XReg) : readX (setRLen s n) k = readX s k := rfl
@[simp] theorem readA_setRLen (s : State) (n : Nat) (k : AReg) : readA (setRLen s n) k = readA s k := rfl
@[simp] theorem readP_setRLen (s : State) (n : Nat) (k : PReg) : readP (setRLen s n) k = readP s k := rfl
@[simp] theorem readQ_setRLen (s : State) (n : Nat) (k : QReg) : readQ (setRLen s n) k = readQ s k := rfl

/-! ### `setIt` -/

@[simp] theorem setIt_x (s : State) (it : Iter) : (setIt s it).x = s.x := rfl
@[simp] theorem setIt_a (s : State) (it : Iter) : (setIt s it).a = s.a := rfl
@[simp] theorem setIt_p (s : State) (it : Iter) : (setIt s it).p = s.p := rfl
@[simp] theorem setIt_q (s : State) (it : Iter) : (setIt s it).q = s.q := rfl
@[simp] theorem setIt_c (s : State) (it : Iter) : (setIt s it).c = s.c := rfl
@[simp] theorem setIt_t (s : State) (it : Iter) : (setIt s it).t = s.t := rfl
@[simp] theorem setIt_ok (s : State) (it : Iter) : (setIt s it).ok = s.ok := rfl
@[simp] theorem setIt_cc (s : State) (it : Iter) : (setIt s it).cc = s.cc := rfl
@[simp] theorem setIt_fault (s : State) (it : Iter) : (setIt s it).fault = s.fault := rfl
@[simp] theorem setIt_fcause (s : State) (it : Iter) : (setIt s it).fcause = s.fcause := rfl
@[simp] theorem setIt_fcmd (s : State) (it : Iter) : (setIt s it).fcmd = s.fcmd := rfl
@[simp] theorem setIt_bufLen (s : State) (it : Iter) : (setIt s it).bufLen = s.bufLen := rfl
@[simp] theorem setIt_lenCfg (s : State) (it : Iter) : (setIt s it).lenCfg = s.lenCfg := rfl
@[simp] theorem setIt_rlen (s : State) (it : Iter) : (setIt s it).rlen = s.rlen := rfl
@[simp] theorem setIt_it (s : State) (it : Iter) : (setIt s it).it = it := rfl
@[simp] theorem setIt_buf (s : State) (it : Iter) : (setIt s it).buf = s.buf := rfl
@[simp] theorem setIt_pending (s : State) (it : Iter) : (setIt s it).pending = s.pending := rfl
@[simp] theorem setIt_reply (s : State) (it : Iter) : (setIt s it).reply = s.reply := rfl
@[simp] theorem readX_setIt (s : State) (it : Iter) (k : XReg) : readX (setIt s it) k = readX s k := rfl
@[simp] theorem readA_setIt (s : State) (it : Iter) (k : AReg) : readA (setIt s it) k = readA s k := rfl
@[simp] theorem readP_setIt (s : State) (it : Iter) (k : PReg) : readP (setIt s it) k = readP s k := rfl
@[simp] theorem readQ_setIt (s : State) (it : Iter) (k : QReg) : readQ (setIt s it) k = readQ s k := rfl

/-! ### `setBuf` -/

@[simp] theorem setBuf_x (s : State) (m : Memory) : (setBuf s m).x = s.x := rfl
@[simp] theorem setBuf_a (s : State) (m : Memory) : (setBuf s m).a = s.a := rfl
@[simp] theorem setBuf_p (s : State) (m : Memory) : (setBuf s m).p = s.p := rfl
@[simp] theorem setBuf_q (s : State) (m : Memory) : (setBuf s m).q = s.q := rfl
@[simp] theorem setBuf_c (s : State) (m : Memory) : (setBuf s m).c = s.c := rfl
@[simp] theorem setBuf_t (s : State) (m : Memory) : (setBuf s m).t = s.t := rfl
@[simp] theorem setBuf_ok (s : State) (m : Memory) : (setBuf s m).ok = s.ok := rfl
@[simp] theorem setBuf_cc (s : State) (m : Memory) : (setBuf s m).cc = s.cc := rfl
@[simp] theorem setBuf_fault (s : State) (m : Memory) : (setBuf s m).fault = s.fault := rfl
@[simp] theorem setBuf_fcause (s : State) (m : Memory) : (setBuf s m).fcause = s.fcause := rfl
@[simp] theorem setBuf_fcmd (s : State) (m : Memory) : (setBuf s m).fcmd = s.fcmd := rfl
@[simp] theorem setBuf_bufLen (s : State) (m : Memory) : (setBuf s m).bufLen = s.bufLen := rfl
@[simp] theorem setBuf_lenCfg (s : State) (m : Memory) : (setBuf s m).lenCfg = s.lenCfg := rfl
@[simp] theorem setBuf_rlen (s : State) (m : Memory) : (setBuf s m).rlen = s.rlen := rfl
@[simp] theorem setBuf_it (s : State) (m : Memory) : (setBuf s m).it = s.it := rfl
@[simp] theorem setBuf_buf (s : State) (m : Memory) : (setBuf s m).buf = m := rfl
@[simp] theorem setBuf_pending (s : State) (m : Memory) : (setBuf s m).pending = s.pending := rfl
@[simp] theorem setBuf_reply (s : State) (m : Memory) : (setBuf s m).reply = s.reply := rfl
@[simp] theorem readX_setBuf (s : State) (m : Memory) (k : XReg) : readX (setBuf s m) k = readX s k := rfl
@[simp] theorem readA_setBuf (s : State) (m : Memory) (k : AReg) : readA (setBuf s m) k = readA s k := rfl
@[simp] theorem readP_setBuf (s : State) (m : Memory) (k : PReg) : readP (setBuf s m) k = readP s k := rfl
@[simp] theorem readQ_setBuf (s : State) (m : Memory) (k : QReg) : readQ (setBuf s m) k = readQ s k := rfl

/-! ### `enterFault` -/

@[simp] theorem enterFault_x (s : State) (cause : Cause) (w : CmdWord) : (enterFault s cause w).x = s.x := rfl
@[simp] theorem enterFault_a (s : State) (cause : Cause) (w : CmdWord) : (enterFault s cause w).a = s.a := rfl
@[simp] theorem enterFault_p (s : State) (cause : Cause) (w : CmdWord) : (enterFault s cause w).p = s.p := rfl
@[simp] theorem enterFault_q (s : State) (cause : Cause) (w : CmdWord) : (enterFault s cause w).q = s.q := rfl
@[simp] theorem enterFault_c (s : State) (cause : Cause) (w : CmdWord) : (enterFault s cause w).c = s.c := rfl
@[simp] theorem enterFault_t (s : State) (cause : Cause) (w : CmdWord) : (enterFault s cause w).t = s.t := rfl
@[simp] theorem enterFault_ok (s : State) (cause : Cause) (w : CmdWord) : (enterFault s cause w).ok = s.ok := rfl
@[simp] theorem enterFault_cc (s : State) (cause : Cause) (w : CmdWord) : (enterFault s cause w).cc = s.cc := rfl
@[simp] theorem enterFault_fault (s : State) (cause : Cause) (w : CmdWord) :
    (enterFault s cause w).fault = true := rfl
@[simp] theorem enterFault_fcause (s : State) (cause : Cause) (w : CmdWord) :
    (enterFault s cause w).fcause = cause.code := rfl
@[simp] theorem enterFault_fcmd (s : State) (cause : Cause) (w : CmdWord) : (enterFault s cause w).fcmd = w := rfl
@[simp] theorem enterFault_bufLen (s : State) (cause : Cause) (w : CmdWord) :
    (enterFault s cause w).bufLen = s.bufLen := rfl
@[simp] theorem enterFault_lenCfg (s : State) (cause : Cause) (w : CmdWord) :
    (enterFault s cause w).lenCfg = s.lenCfg := rfl
@[simp] theorem enterFault_rlen (s : State) (cause : Cause) (w : CmdWord) :
    (enterFault s cause w).rlen = s.rlen := rfl
@[simp] theorem enterFault_it (s : State) (cause : Cause) (w : CmdWord) : (enterFault s cause w).it = s.it := rfl
@[simp] theorem enterFault_buf (s : State) (cause : Cause) (w : CmdWord) :
    (enterFault s cause w).buf = s.buf := rfl
@[simp] theorem enterFault_pending (s : State) (cause : Cause) (w : CmdWord) :
    (enterFault s cause w).pending = s.pending := rfl
@[simp] theorem enterFault_reply (s : State) (cause : Cause) (w : CmdWord) :
    (enterFault s cause w).reply = s.reply := rfl
@[simp] theorem readX_enterFault (s : State) (cause : Cause) (w : CmdWord) (k : XReg) :
    readX (enterFault s cause w) k = readX s k := rfl
@[simp] theorem readA_enterFault (s : State) (cause : Cause) (w : CmdWord) (k : AReg) :
    readA (enterFault s cause w) k = readA s k := rfl
@[simp] theorem readP_enterFault (s : State) (cause : Cause) (w : CmdWord) (k : PReg) :
    readP (enterFault s cause w) k = readP s k := rfl
@[simp] theorem readQ_enterFault (s : State) (cause : Cause) (w : CmdWord) (k : QReg) :
    readQ (enterFault s cause w) k = readQ s k := rfl

/-! ### `taken` -/

@[simp] theorem taken_x (s : State) (rest : List HostAction) (r : HostReply) : (taken s rest r).x = s.x := rfl
@[simp] theorem taken_a (s : State) (rest : List HostAction) (r : HostReply) : (taken s rest r).a = s.a := rfl
@[simp] theorem taken_p (s : State) (rest : List HostAction) (r : HostReply) : (taken s rest r).p = s.p := rfl
@[simp] theorem taken_q (s : State) (rest : List HostAction) (r : HostReply) : (taken s rest r).q = s.q := rfl
@[simp] theorem taken_c (s : State) (rest : List HostAction) (r : HostReply) : (taken s rest r).c = s.c := rfl
@[simp] theorem taken_t (s : State) (rest : List HostAction) (r : HostReply) : (taken s rest r).t = s.t := rfl
@[simp] theorem taken_ok (s : State) (rest : List HostAction) (r : HostReply) : (taken s rest r).ok = s.ok := rfl
@[simp] theorem taken_cc (s : State) (rest : List HostAction) (r : HostReply) : (taken s rest r).cc = s.cc := rfl
@[simp] theorem taken_fault (s : State) (rest : List HostAction) (r : HostReply) :
    (taken s rest r).fault = s.fault := rfl
@[simp] theorem taken_fcause (s : State) (rest : List HostAction) (r : HostReply) :
    (taken s rest r).fcause = s.fcause := rfl
@[simp] theorem taken_fcmd (s : State) (rest : List HostAction) (r : HostReply) :
    (taken s rest r).fcmd = s.fcmd := rfl
@[simp] theorem taken_bufLen (s : State) (rest : List HostAction) (r : HostReply) :
    (taken s rest r).bufLen = s.bufLen := rfl
@[simp] theorem taken_lenCfg (s : State) (rest : List HostAction) (r : HostReply) :
    (taken s rest r).lenCfg = s.lenCfg := rfl
@[simp] theorem taken_rlen (s : State) (rest : List HostAction) (r : HostReply) :
    (taken s rest r).rlen = s.rlen := rfl
@[simp] theorem taken_it (s : State) (rest : List HostAction) (r : HostReply) : (taken s rest r).it = s.it := rfl
@[simp] theorem taken_buf (s : State) (rest : List HostAction) (r : HostReply) :
    (taken s rest r).buf = s.buf := rfl
@[simp] theorem taken_pending (s : State) (rest : List HostAction) (r : HostReply) :
    (taken s rest r).pending = rest := rfl
@[simp] theorem taken_reply (s : State) (rest : List HostAction) (r : HostReply) :
    (taken s rest r).reply = r := rfl
@[simp] theorem readX_taken (s : State) (rest : List HostAction) (r : HostReply) (k : XReg) :
    readX (taken s rest r) k = readX s k := rfl
@[simp] theorem readA_taken (s : State) (rest : List HostAction) (r : HostReply) (k : AReg) :
    readA (taken s rest r) k = readA s k := rfl
@[simp] theorem readP_taken (s : State) (rest : List HostAction) (r : HostReply) (k : PReg) :
    readP (taken s rest r) k = readP s k := rfl
@[simp] theorem readQ_taken (s : State) (rest : List HostAction) (r : HostReply) (k : QReg) :
    readQ (taken s rest r) k = readQ s k := rfl

end Sys2Proof.Machine
end

