-- ==== Sys2Proof/Laws/Memory.lean ====
section
/-! SUPPORT. `BUF`: a read after a write, the canonical form under every memory operation, and the byte sequences
of 00_scope.md rule R12. -/

namespace Sys2Proof.Machine

/-! ### One byte -/

/-- An address below every listed one reads as unlisted. -/
theorem readCells_below (cs : List Host.Cell) (n : Nat) (h : ∀ c ∈ cs, n < c.1) : readCells cs n = unlisted := by
  induction cs with
  | nil => rfl
  | cons c cs ih =>
    have h1 := h c (by simp)
    simp only [readCells, show c.1 ≠ n by omega, if_false]
    exact ih fun d hd => h d (by simp [hd])

theorem readCells_writeCells (cs : List Host.Cell) (i j : Nat) (b : Byte)
    (h : cs.Pairwise (fun c d => c.1 < d.1)) :
    readCells (writeCells cs i b) j = if i = j then b else readCells cs j := by
  induction cs with
  | nil =>
    by_cases hb : b = unlisted
    · simp [writeCells, readCells, hb]
    · simp [writeCells, readCells, hb]
  | cons c rest ih =>
    obtain ⟨k, v⟩ := c
    have hrest := (List.pairwise_cons.1 h).2
    have hlow := (List.pairwise_cons.1 h).1
    simp only [writeCells]
    by_cases h1 : k < i
    · simp only [h1, if_true, readCells]
      by_cases hkj : k = j
      · simp [hkj, show i ≠ j by omega]
      · simp [hkj, ih hrest]
    · by_cases h2 : k = i
      · subst h2
        by_cases hb : b = unlisted
        · by_cases hkj : k = j
          · subst hkj; simp [hb, readCells_below rest k hlow]
          · simp [hb, hkj, readCells]
        · by_cases hkj : k = j <;> simp [hb, hkj, readCells]
      · by_cases hb : b = unlisted
        · by_cases hij : i = j
          · subst hij
            have : readCells ((k, v) :: rest) i = unlisted :=
              readCells_below _ _ (by
                intro c hc
                rcases List.mem_cons.1 hc with rfl | hc
                · simp only; omega
                · have := hlow c hc; simp only at this; omega)
            simp [h1, h2, hb, this]
          · simp [h1, h2, hb, hij]
        · by_cases hij : i = j
          · subst hij; simp [h1, h2, hb, readCells]
          · simp [h1, h2, hb, hij, readCells]

/-- A byte reads as what was last written to its address (20_memory.md R60). -/
theorem Memory.read_write (m : Memory) (i j : Nat) (b : Byte) (h : m.wf) :
    (m.write i b).read j = if i = j then b else m.read j := readCells_writeCells m.cells i j b h.1

theorem mem_writeCells (cs : List Host.Cell) (i : Nat) (b : Byte) (c : Host.Cell)
    (h : c ∈ writeCells cs i b) : c ∈ cs ∨ (c = (i, b) ∧ b ≠ unlisted) := by
  induction cs with
  | nil =>
    by_cases hb : b = unlisted <;> simp_all [writeCells]
  | cons d rest ih =>
    obtain ⟨k, v⟩ := d
    simp only [writeCells] at h
    split at h
    · rcases List.mem_cons.1 h with h | h
      · exact .inl (by simp [h])
      · rcases ih h with h | h
        · exact .inl (by simp [h])
        · exact .inr h
    · split at h
      · split at h
        · exact .inl (by simp [h])
        · rcases List.mem_cons.1 h with h | h
          · exact .inr ⟨h, ‹_›⟩
          · exact .inl (by simp [h])
      · split at h
        · exact .inl h
        · rcases List.mem_cons.1 h with h | h
          · exact .inr ⟨h, ‹_›⟩
          · exact .inl h

theorem pairwise_writeCells (cs : List Host.Cell) (i : Nat) (b : Byte)
    (h : cs.Pairwise (fun c d => c.1 < d.1)) : (writeCells cs i b).Pairwise (fun c d => c.1 < d.1) := by
  induction cs with
  | nil => by_cases hb : b = unlisted <;> simp [writeCells, hb]
  | cons d rest ih =>
    obtain ⟨k, v⟩ := d
    have hrest := (List.pairwise_cons.1 h).2
    have hlow := (List.pairwise_cons.1 h).1
    simp only [writeCells]
    split
    · refine List.pairwise_cons.2 ⟨?_, ih hrest⟩
      intro c hc
      rcases mem_writeCells rest i b c hc with hc | ⟨rfl, -⟩
      · exact hlow c hc
      · assumption
    · split
      · split
        · exact hrest
        · refine List.pairwise_cons.2 ⟨?_, hrest⟩
          intro c hc
          have := hlow c hc
          simp only at this ⊢
          omega
      · split
        · exact h
        · refine List.pairwise_cons.2 ⟨?_, h⟩
          intro c hc
          rcases List.mem_cons.1 hc with rfl | hc
          · simp only; omega
          · have := hlow c hc; simp only at this ⊢; omega

/-- A write inside `BUF` keeps the canonical form. -/
theorem Memory.wf_write (m : Memory) (i : Nat) (b : Byte) (h : m.wf) (hi : i < Config.bufSize) :
    (m.write i b).wf := by
  refine ⟨pairwise_writeCells m.cells i b h.1, fun c hc => ?_⟩
  rcases mem_writeCells m.cells i b c hc with hc | ⟨rfl, hb⟩
  · exact h.2 c hc
  · exact ⟨hi, hb⟩

/-- `BUF` after reset is in canonical form, and reads 0x00 everywhere (10_state.md R40). -/
theorem Memory.wf_reset : State.reset.buf.wf := by decide

@[simp] theorem Memory.read_reset (k : Nat) : State.reset.buf.read k = 0 := rfl

/-- An address outside `BUF` reads as unlisted. -/
theorem Memory.read_outside (m : Memory) (k : Nat) (h : m.wf) (hk : Config.bufSize ≤ k) :
    m.read k = unlisted := by
  obtain ⟨-, h2⟩ := h
  unfold Memory.read
  generalize m.cells = cs at h2
  induction cs with
  | nil => rfl
  | cons c rest ih =>
    have := (h2 c (by simp)).1
    simp only [readCells, show c.1 ≠ k by omega, if_false]
    exact ih fun d hd => h2 d (by simp [hd])

/-! ### Byte sequences in `BUF` -/

@[simp] theorem Memory.length_readBytes (m : Memory) (i n : Nat) : (m.readBytes i n).length = n := by
  induction n generalizing i with
  | zero => rfl
  | succ n ih => simp [Memory.readBytes, ih]

theorem Memory.getElem_readBytes (m : Memory) (i n j : Nat) (h : j < (m.readBytes i n).length) :
    (m.readBytes i n)[j] = m.read (i + j) := by
  induction n generalizing i j with
  | zero => simp [Memory.readBytes] at h
  | succ n ih =>
    cases j with
    | zero => rfl
    | succ j =>
      simp only [Memory.readBytes, List.getElem_cons_succ]
      rw [ih]
      congr 1
      omega

/-- Writing a byte sequence that fits keeps the canonical form. -/
theorem Memory.wf_writeBytes (m : Memory) (i : Nat) (B : List Byte) (h : m.wf)
    (hi : i + B.length ≤ Config.bufSize) : (m.writeBytes i B).wf := by
  induction B generalizing m i with
  | nil => exact h
  | cons b bs ih =>
    simp only [List.length_cons] at hi
    exact ih _ _ (m.wf_write i b h (by omega)) (by omega)

/-- What every address reads after a byte sequence that fits is written. -/
theorem Memory.read_writeBytes (m : Memory) (i : Nat) (B : List Byte) (k : Nat) (h : m.wf)
    (hi : i + B.length ≤ Config.bufSize) :
    (m.writeBytes i B).read k = if h : i ≤ k ∧ k < i + B.length then B[k - i]'(by omega) else m.read k := by
  induction B generalizing m i with
  | nil => simp [Memory.writeBytes]
  | cons b bs ih =>
    simp only [List.length_cons] at hi ⊢
    simp only [Memory.writeBytes]
    rw [ih _ _ (m.wf_write i b h (by omega)) (by omega), m.read_write i k b h]
    by_cases h1 : i = k
    · subst h1; simp
    · by_cases h2 : i + 1 ≤ k ∧ k < i + 1 + bs.length
      · have h3 : i ≤ k ∧ k < i + (bs.length + 1) := by omega
        simp only [h2, h3, and_self, dite_true]
        rw [List.getElem_cons]
        simp only [show k - i ≠ 0 by omega, dite_false]
        congr 1
      · have h3 : ¬ (i ≤ k ∧ k < i + (bs.length + 1)) := by omega
        simp only [h1, h2, h3, if_false, dite_false]

/-- The bytes just written read back. -/
theorem Memory.readBytes_writeBytes (m : Memory) (i : Nat) (B : List Byte) (h : m.wf)
    (hi : i + B.length ≤ Config.bufSize) : (m.writeBytes i B).readBytes i B.length = B := by
  apply List.ext_getElem (by simp)
  intro j h1 h2
  rw [Memory.getElem_readBytes, m.read_writeBytes i B _ h hi]
  simp only [Nat.le_add_right, Nat.add_lt_add_iff_left, h2, and_self, dite_true]
  congr 1
  omega

/-- Equal contents in canonical form are equal data. -/
theorem Memory.ext_read (m n : Memory) (hm : m.wf) (hn : n.wf) (h : ∀ k, m.read k = n.read k) : m = n := by
  obtain ⟨cs⟩ := m
  obtain ⟨ds⟩ := n
  simp only [Memory.mk.injEq]
  simp only [Memory.wf, Memory.read] at hm hn h
  induction cs generalizing ds with
  | nil =>
    cases ds with
    | nil => rfl
    | cons d ds =>
      have := h d.1
      simp only [readCells, if_true] at this
      exact absurd this.symm (hn.2 d (by simp)).2
  | cons c cs ih =>
    obtain ⟨k, v⟩ := c
    have hmc := List.pairwise_cons.1 hm.1
    have hvk := hm.2 (k, v) (by simp)
    cases ds with
    | nil =>
      have := h k
      simp only [readCells, if_true] at this
      exact absurd this hvk.2
    | cons d ds =>
      obtain ⟨l, w⟩ := d
      have hnc := List.pairwise_cons.1 hn.1
      have hwl := hn.2 (l, w) (by simp)
      have hkl : k = l := by
        rcases Nat.lt_trichotomy k l with hlt | heq | hgt
        · have := h k
          rw [readCells_below ((l, w) :: ds) k (by
            intro c hc
            rcases List.mem_cons.1 hc with rfl | hc
            · exact hlt
            · exact Nat.lt_trans hlt (hnc.1 c hc))] at this
          simp only [readCells, if_true] at this
          exact absurd this hvk.2
        · exact heq
        · have := h l
          rw [readCells_below ((k, v) :: cs) l (by
            intro c hc
            rcases List.mem_cons.1 hc with rfl | hc
            · exact hgt
            · exact Nat.lt_trans hgt (hmc.1 c hc))] at this
          simp only [readCells, if_true] at this
          exact absurd this.symm hwl.2
      subst hkl
      have hv : v = w := by simpa [readCells] using h k
      subst hv
      have : cs = ds := by
        apply ih ⟨hmc.2, fun c hc => hm.2 c (by simp [hc])⟩ ds ⟨hnc.2, fun c hc => hn.2 c (by simp [hc])⟩
        intro j
        by_cases hj : k = j
        · subst hj
          rw [readCells_below cs k hmc.1, readCells_below ds k hnc.1]
        · simpa [readCells, hj] using h j
      rw [this]

/-! ### The byte sequences of 00_scope.md R12 -/

@[simp] theorem length_beBytes (n v : Nat) : (beBytes n v).length = n := by
  induction n with
  | zero => rfl
  | succ n ih => simp [beBytes, ih]

@[simp] theorem length_leBytes (n v : Nat) : (leBytes n v).length = n := by
  induction n generalizing v with
  | zero => rfl
  | succ n ih => simp [leBytes, ih]

/-- `be_n(v)[i] = (v >> (8*(n-1-i))) & 0xff`. -/
theorem getElem_beBytes (n v i : Nat) (h : i < (beBytes n v).length) :
    (beBytes n v)[i] = BitVec.ofNat 8 (v >>> (8 * (n - 1 - i))) := by
  induction n generalizing i with
  | zero => simp [beBytes] at h
  | succ n ih =>
    cases i with
    | zero => simp [beBytes]
    | succ i =>
      simp only [beBytes, List.getElem_cons_succ]
      rw [ih]
      congr 3
      omega

/-- `le_n(v)[i] = (v >> (8*i)) & 0xff`. -/
theorem getElem_leBytes (n v i : Nat) (h : i < (leBytes n v).length) :
    (leBytes n v)[i] = BitVec.ofNat 8 (v >>> (8 * i)) := by
  induction n generalizing v i with
  | zero => simp [leBytes] at h
  | succ n ih =>
    cases i with
    | zero => simp [leBytes]
    | succ i =>
      simp only [leBytes, List.getElem_cons_succ]
      rw [ih, ← Nat.shiftRight_add]
      congr 2
      omega

/-- `from_be(B)` is a number of `8*len(B)` bits. -/
theorem fromBE_lt (B : List Byte) : fromBE B < 256 ^ B.length := by
  induction B with
  | nil => simp [fromBE]
  | cons b bs ih =>
    have hb : b.toNat < 256 := b.isLt
    have := Nat.mul_le_mul_right (256 ^ bs.length) (Nat.lt_iff_add_one_le.1 hb)
    simp only [fromBE, List.length_cons, pow_succ]
    rw [Nat.add_mul] at this
    omega

/-- `from_le(B)` is a number of `8*len(B)` bits. -/
theorem fromLE_lt (B : List Byte) : fromLE B < 256 ^ B.length := by
  induction B with
  | nil => simp [fromLE]
  | cons b bs ih =>
    have hb : b.toNat < 256 := b.isLt
    simp only [fromLE, List.length_cons, pow_succ]
    omega

end Sys2Proof.Machine
end

