-- ==== Sys2Proof/Laws/Ops.lean ====
section
/-! SUPPORT. For every shared operation, once, everything it can do. Later proofs cite these and do not unfold the
operations. -/

namespace Sys2Proof.Machine

/-! ### Sequences of checks -/

theorem bind_ok {α β : Type} (x : Except Cause α) (f : α → Except Cause β) (b : β) :
    (x >>= f) = .ok b ↔ ∃ a, x = .ok a ∧ f a = .ok b := by
  cases x <;> simp [bind, Except.bind]

/-- The first check that fails decides the cause (60_exceptions.md R377). -/
theorem bind_error {α β : Type} (x : Except Cause α) (f : α → Except Cause β) (c : Cause) :
    (x >>= f) = .error c ↔ x = .error c ∨ ∃ a, x = .ok a ∧ f a = .error c := by
  cases x <;> simp [bind, Except.bind]

/-! ### Register files -/

theorem readX_writeX (s : State) (i : XReg) (v : U128) (k : XReg) :
    readX (writeX s i v) k = if i = k then v else readX s k := by
  simp only [readX, writeX, Vector.getElem_set, BitVec.toNat_inj]

theorem readA_writeA (s : State) (i : AReg) (v : IPVal) (k : AReg) :
    readA (writeA s i v) k = if i = k then v else readA s k := by
  simp only [readA, writeA, Vector.getElem_set, BitVec.toNat_inj]

theorem readP_writeP (s : State) (i : PReg) (v : IPPfx) (k : PReg) :
    readP (writeP s i v) k = if i = k then v else readP s k := by
  simp only [readP, writeP, Vector.getElem_set, BitVec.toNat_inj]

theorem readQ_writeQ (s : State) (i : QReg) (v : RefPfx) (k : QReg) :
    readQ (writeQ s i v) k = if i = k then v else readQ s k := by
  simp only [readQ, writeQ, Vector.getElem_set, BitVec.toNat_inj]

@[simp] theorem readX_writeX_same (s : State) (i : XReg) (v : U128) : readX (writeX s i v) i = v := by
  simp [readX_writeX]

@[simp] theorem readA_writeA_same (s : State) (i : AReg) (v : IPVal) : readA (writeA s i v) i = v := by
  simp [readA_writeA]

@[simp] theorem readP_writeP_same (s : State) (i : PReg) (v : IPPfx) : readP (writeP s i v) i = v := by
  simp [readP_writeP]

@[simp] theorem readQ_writeQ_same (s : State) (i : QReg) (v : RefPfx) : readQ (writeQ s i v) i = v := by
  simp [readQ_writeQ]

/-! ### Operands: what is read, and the one way each can fail -/

theorem needA_ok (s : State) (i : AReg) (v : IPAddr) : needA s i = .ok v ↔ readA s i = .addr v := by
  unfold needA; split <;> simp_all

theorem needA_error (s : State) (i : AReg) (c : Cause) :
    needA s i = .error c ↔ c = .uninitIP ∧ readA s i = .uninit := by
  unfold needA; split <;> simp_all [eq_comm]

theorem needP_ok (s : State) (i : PReg) (A : IPAddr) (k : Nat) :
    needP s i = .ok (A, k) ↔ (readP s i).addr = .addr A ∧ (readP s i).bits.val = k := by
  unfold needP; split <;> simp_all

theorem needP_error (s : State) (i : PReg) (c : Cause) :
    needP s i = .error c ↔ c = .uninitIP ∧ (readP s i).addr = .uninit := by
  unfold needP; split <;> simp_all [eq_comm]

theorem needLegal_ok (b : Bool) : needLegal b = .ok () ↔ b = true := by
  unfold needLegal; split <;> simp_all

theorem needLegal_error (b : Bool) (c : Cause) :
    needLegal b = .error c ↔ c = .illegalCommand ∧ b = false := by
  unfold needLegal; split <;> simp_all [eq_comm]

theorem needFamily_ok (f : Family) (v : IPAddr) : needFamily f v = .ok () ↔ v.family = f := by
  unfold needFamily; split <;> simp_all

theorem needFamily_error (f : Family) (v : IPAddr) (c : Cause) :
    needFamily f v = .error c ↔ c = .familyMismatch ∧ v.family ≠ f := by
  unfold needFamily; split <;> simp_all [eq_comm]

theorem needPair_ok (s : State) (rs1 rs2 : AReg) (u v : IPAddr) :
    needPair s rs1 rs2 = .ok (u, v) ↔ readA s rs1 = .addr u ∧ readA s rs2 = .addr v ∧ u.len = v.len := by
  unfold needPair
  cases h1 : readA s rs1 <;> cases h2 : readA s rs2 <;>
    simp [needA, h1, h2, bind, Except.bind, pure, Except.pure, throw, throwThe, MonadExceptOf.throw]
  split <;> simp <;> grind

theorem needPair_error (s : State) (rs1 rs2 : AReg) (c : Cause) :
    needPair s rs1 rs2 = .error c ↔
      (c = .uninitIP ∧ (readA s rs1 = .uninit ∨ readA s rs2 = .uninit)) ∨
      (c = .lengthMismatch ∧ ∃ u v, readA s rs1 = .addr u ∧ readA s rs2 = .addr v ∧ u.len ≠ v.len) := by
  unfold needPair
  cases h1 : readA s rs1 <;> cases h2 : readA s rs2 <;>
    simp [needA, h1, h2, bind, Except.bind, pure, Except.pure, throw, throwThe, MonadExceptOf.throw, eq_comm]
  split <;> simp_all

theorem shiftAmount_ok (v : U128) (n : Nat) : shiftAmount v = .ok n ↔ v.toNat < 128 ∧ v.toNat = n := by
  unfold shiftAmount; split <;> simp_all

theorem shiftAmount_error (v : U128) (c : Cause) :
    shiftAmount v = .error c ↔ c = .shiftRange ∧ 128 ≤ v.toNat := by
  unfold shiftAmount; split <;> simp_all [eq_comm]

theorem maskAddr_ok (f : Family) (n : Imm8) (m : IPAddr) :
    maskAddr f n = .ok m ↔ n.toNat ≤ 8 * f.len ∧ m = ip f (topMask (8 * f.len) n.toNat) := by
  unfold maskAddr; split <;> simp_all [eq_comm]

theorem maskAddr_error (f : Family) (n : Imm8) (c : Cause) :
    maskAddr f n = .error c ↔ c = .prefixRange ∧ 8 * f.len < n.toNat := by
  unfold maskAddr; split <;> simp_all [eq_comm]

theorem maskIP_ok (v : IPAddr) (k : Nat) (m : IPAddr) :
    maskIP v k = .ok m ↔ k ≤ 8 * v.len ∧ m = ip v.family (v.num &&& topMask (8 * v.len) k) := by
  unfold maskIP; split <;> simp_all [eq_comm]

theorem maskIP_error (v : IPAddr) (k : Nat) (c : Cause) :
    maskIP v k = .error c ↔ c = .prefixRange ∧ 8 * v.len < k := by
  unfold maskIP; split <;> simp_all [eq_comm]

theorem containsIP_ok (A : IPAddr) (k : Nat) (v : IPAddr) (b : Bool) :
    containsIP A k v = .ok b ↔
      k ≤ 8 * v.len ∧ b = decide (ip v.family (v.num &&& topMask (8 * v.len) k) = A) := by
  unfold containsIP maskIP
  split <;> simp_all [bind, Except.bind, pure, Except.pure, eq_comm]

theorem containsIP_error (A : IPAddr) (k : Nat) (v : IPAddr) (c : Cause) :
    containsIP A k v = .error c ↔ c = .prefixRange ∧ 8 * v.len < k := by
  unfold containsIP maskIP
  split <;> simp_all [bind, Except.bind, pure, Except.pure, eq_comm]

theorem familyOfLen_some (b : Byte) (f : Family) : familyOfLen b = some f ↔ b.toNat = f.len := by
  unfold familyOfLen
  cases f <;> simp only [Family.len] <;> split <;> simp_all <;> bv_omega

theorem lens_ok (s : State) (n m : Family) :
    lens s = .ok (n, m) ↔
      (s.lenCfg.extractLsb' 0 8).toNat = n.len ∧ (s.lenCfg.extractLsb' 8 8).toNat = m.len := by
  unfold lens
  rw [← familyOfLen_some, ← familyOfLen_some]
  split <;> simp_all

theorem lens_error (s : State) (c : Cause) :
    lens s = .error c ↔ c = .badLength ∧
      (familyOfLen (s.lenCfg.extractLsb' 0 8) = none ∨ familyOfLen (s.lenCfg.extractLsb' 8 8) = none) := by
  unfold lens
  cases familyOfLen (s.lenCfg.extractLsb' 0 8) <;> cases familyOfLen (s.lenCfg.extractLsb' 8 8) <;>
    simp [eq_comm]

theorem readCsr_ok (s : State) (n : Csr) (v : U128) :
    readCsr s n = .ok v ↔
      (n = 0 ∧ v = (statusWord s).setWidth 128) ∨ (n = 1 ∧ v = s.bufLen.setWidth 128) ∨
      (n = 2 ∧ v = s.lenCfg.setWidth 128) ∨ (n = 3 ∧ v = s.rlen.setWidth 128) ∨
      (n = 4 ∧ v = s.it.idx.setWidth 128) ∨ (n = 5 ∧ v = (itCfgWord s).setWidth 128) := by
  unfold readCsr
  by_cases h0 : n = 0
  · subst h0; simp [eq_comm]
  by_cases h1 : n = 1
  · subst h1; simp [eq_comm]
  by_cases h2 : n = 2
  · subst h2; simp [eq_comm]
  by_cases h3 : n = 3
  · subst h3; simp [eq_comm]
  by_cases h4 : n = 4
  · subst h4; simp [eq_comm]
  by_cases h5 : n = 5
  · subst h5; simp [eq_comm]
  · simp only [h0, h1, h2, h3, h4, h5, if_false, false_and, or_false, reduceCtorEq]

theorem readCsr_error (s : State) (n : Csr) (c : Cause) :
    readCsr s n = .error c ↔ c = .csrAccess ∧ 6 ≤ n.toNat := by
  unfold readCsr
  by_cases h : 6 ≤ n.toNat
  · rw [if_neg, if_neg, if_neg, if_neg, if_neg, if_neg]
    · simp [h, eq_comm]
    all_goals bv_omega
  · have : n = 0 ∨ n = 1 ∨ n = 2 ∨ n = 3 ∨ n = 4 ∨ n = 5 := by bv_omega
    rcases this with rfl | rfl | rfl | rfl | rfl | rfl <;> simp

/-! ### `BUF` -/

theorem memRead_ok (s : State) (i n : Nat) (B : List Byte) :
    memRead s i n = .ok B ↔ i + n ≤ 256 ∧ B = s.buf.readBytes i n := by
  unfold memRead; split <;> simp_all [eq_comm]

theorem memRead_error (s : State) (i n : Nat) (c : Cause) :
    memRead s i n = .error c ↔ c = .bufRange ∧ 256 < i + n := by
  unfold memRead; split <;> simp_all [eq_comm]

theorem memWrite_ok (s : State) (i : Nat) (B : List Byte) (t : State) :
    memWrite s i B = .ok t ↔ i + B.length ≤ 256 ∧ t = setBuf s (s.buf.writeBytes i B) := by
  unfold memWrite; split <;> simp_all [eq_comm]

theorem memWrite_error (s : State) (i : Nat) (B : List Byte) (c : Cause) :
    memWrite s i B = .error c ↔ c = .bufRange ∧ 256 < i + B.length := by
  unfold memWrite; split <;> simp_all [eq_comm]

theorem window_ok (s : State) (off : Imm8) (W : List Byte) :
    window s off = .ok W ↔
      off.toNat + s.bufLen.toNat ≤ 256 ∧ W = s.buf.readBytes off.toNat s.bufLen.toNat :=
  memRead_ok s off.toNat s.bufLen.toNat W

theorem window_error (s : State) (off : Imm8) (c : Cause) :
    window s off = .error c ↔ c = .bufRange ∧ 256 < off.toNat + s.bufLen.toNat :=
  memRead_error s off.toNat s.bufLen.toNat c

/-! ### The end of a command -/

@[simp] theorem complete_ok (i : Instr) (s t : State) : complete i s (.ok t) = .next t := rfl

@[simp] theorem complete_error (i : Instr) (s : State) (c : Cause) :
    complete i s (.error c) = .next (enterFault s c (encode i)) := rfl

/-- A command that ends in `complete` answers a next state: the one it left, or fault entry. -/
theorem complete_next (i : Instr) (s t : State) (r : Except Cause State) :
    complete i s r = .next t ↔ r = .ok t ∨ ∃ c, r = .error c ∧ t = enterFault s c (encode i) := by
  cases r <;> simp [eq_comm]

/-- Fault entry, in the words the statements use. -/
theorem raises_of_error (i : Instr) (s : State) (c : Cause) (r : Except Cause State)
    (h : exec i s = complete i s r) (hr : r = .error c) : Raises i s c := by
  rw [Raises, h, hr]; rfl

/-! ### Records -/

theorem IPAddr.len_le (v : IPAddr) : 8 * v.len ≤ 128 := by
  cases v <;> simp [IPAddr.len, IPAddr.family, Family.len]

theorem IPAddr.len_eq (v : IPAddr) : v.len = 4 ∨ v.len = 16 := by
  cases v <;> simp [IPAddr.len, IPAddr.family, Family.len]

@[simp] theorem IPAddr.length_bytes (v : IPAddr) : v.bytes.length = v.len := by simp [IPAddr.bytes]

theorem IPAddr.family_eq_iff (u v : IPAddr) : u.family = v.family ↔ u.len = v.len := by
  cases u <;> cases v <;> simp [IPAddr.len, IPAddr.family, Family.len]

@[simp] theorem ip_family (f : Family) (k : U128) : (ip f k).family = f := by cases f <;> rfl

@[simp] theorem ip_len (f : Family) (k : U128) : (ip f k).len = f.len := by cases f <;> rfl

/-- An address is what its family and its number make. -/
@[simp] theorem ip_num (v : IPAddr) : ip v.family v.num = v := by
  cases v <;> simp [ip, IPAddr.family, IPAddr.num]

/-- The number of `ip(n, k)` is `k mod 2^(8n)`. -/
theorem num_ip (f : Family) (k : U128) : (ip f k).num.toNat = k.toNat % 2 ^ (8 * f.len) := by
  cases f
  · simp [ip, IPAddr.num, Family.len]; omega
  · simp only [ip, IPAddr.num, Family.len]; have := k.isLt; omega

/-- The number of an address fits its length. -/
theorem IPAddr.num_lt (v : IPAddr) : v.num.toNat < 2 ^ (8 * v.len) := by
  cases v with
  | v4 n => have := n.isLt; simp [IPAddr.num, IPAddr.len, IPAddr.family, Family.len]; omega
  | v6 n => exact n.isLt

@[simp] theorem recordBody_length (ea ip gw : IPAddr) (ref : U128) :
    (recordBody ea ip gw ref).length = ea.len + ip.len + gw.len + 16 := by
  simp [recordBody, Config.refLen]; omega

/-- An encoder that writes wrote the whole record and `RLEN`, and its operands were fit for it. -/
theorem encodeRecord_ok (header : Family → Family → List Byte) (rd : XReg) (rs1 rs2 rs3 : AReg) (off : Imm8)
    (s t : State) :
    encodeRecord header rd rs1 rs2 rs3 off s = .ok t ↔
      ∃ ea ip gw, readA s rs1 = .addr ea ∧ readA s rs2 = .addr ip ∧ readA s rs3 = .addr gw ∧ ea.len = ip.len ∧
        off.toNat + (header ea.family gw.family ++ recordBody ea ip gw (readX s rd)).length ≤ 256 ∧
        t = setRLen (setBuf s (s.buf.writeBytes off.toNat
              (header ea.family gw.family ++ recordBody ea ip gw (readX s rd))))
            (header ea.family gw.family ++ recordBody ea ip gw (readX s rd)).length := by
  unfold encodeRecord
  cases h1 : readA s rs1 <;> cases h2 : readA s rs2 <;> cases h3 : readA s rs3 <;>
    simp [needA, h1, h2, h3, bind, Except.bind, pure, Except.pure, throw, throwThe, MonadExceptOf.throw]
  rename_i ea ip gw
  by_cases hl : ea.len = ip.len
  · simp only [hl, if_true, true_and]
    cases hm : memWrite s off.toNat (header ea.family gw.family ++ recordBody ea ip gw (readX s rd)) with
    | error c => have := ((memWrite_error _ _ _ _).1 hm).2; simp at this ⊢; omega
    | ok t' =>
      obtain ⟨h4, rfl⟩ := (memWrite_ok _ _ _ _).1 hm
      simp only [List.length_append, recordBody_length, hl] at h4
      simp [h4, eq_comm]
  · simp [hl]

/-- An encoder stops before it writes: `UninitIP`, then `RecFamily`, then `BufRange`. -/
theorem encodeRecord_error (header : Family → Family → List Byte) (rd : XReg) (rs1 rs2 rs3 : AReg) (off : Imm8)
    (s : State) (c : Cause) :
    encodeRecord header rd rs1 rs2 rs3 off s = .error c ↔
      (c = .uninitIP ∧ (readA s rs1 = .uninit ∨ readA s rs2 = .uninit ∨ readA s rs3 = .uninit)) ∨
      (∃ ea ip gw, readA s rs1 = .addr ea ∧ readA s rs2 = .addr ip ∧ readA s rs3 = .addr gw ∧
        ((c = .recFamily ∧ ea.len ≠ ip.len) ∨
         (c = .bufRange ∧ ea.len = ip.len ∧
           256 < off.toNat + (header ea.family gw.family ++ recordBody ea ip gw (readX s rd)).length))) := by
  unfold encodeRecord
  cases h1 : readA s rs1 <;> cases h2 : readA s rs2 <;> cases h3 : readA s rs3 <;>
    simp [needA, h1, h2, h3, bind, Except.bind, pure, Except.pure, throw, throwThe, MonadExceptOf.throw, eq_comm]
  rename_i ea ip gw
  by_cases hl : ip.len = ea.len
  · simp only [hl, if_true, true_and, not_true, and_false, false_or]
    cases hm : memWrite s off.toNat (header ea.family gw.family ++ recordBody ea ip gw (readX s rd)) with
    | error d =>
      obtain ⟨rfl, h4⟩ := (memWrite_error _ _ _ _).1 hm
      simp only [List.length_append, recordBody_length, hl] at h4
      simp [h4]
    | ok t' => have := ((memWrite_ok _ _ _ _).1 hm).1; simp at this ⊢; omega
  · simp [Ne.symm hl]

@[simp] theorem writeRecord_ok (s : State) (rd : XReg) (rs1 rs2 rs3 : AReg) (r : RecordValues) (L : Nat) :
    (writeRecord s rd rs1 rs2 rs3 r L).ok = true := rfl

@[simp] theorem writeRecord_rlen (s : State) (rd : XReg) (rs1 rs2 rs3 : AReg) (r : RecordValues) (L : Nat) :
    (writeRecord s rd rs1 rs2 rs3 r L).rlen = BitVec.ofNat 9 L := rfl

theorem readX_writeRecord (s : State) (rd : XReg) (rs1 rs2 rs3 : AReg) (r : RecordValues) (L : Nat) (k : XReg) :
    readX (writeRecord s rd rs1 rs2 rs3 r L) k = if rd = k then r.ref else readX s k := by
  simp [writeRecord, readX_writeX]

/-- Of a register named twice the later write stays (45_addrrec_codec.md R315, R321). -/
theorem readA_writeRecord (s : State) (rd : XReg) (rs1 rs2 rs3 : AReg) (r : RecordValues) (L : Nat) (k : AReg) :
    readA (writeRecord s rd rs1 rs2 rs3 r L) k =
      if rs3 = k then .addr r.gw else if rs2 = k then .addr r.ip else if rs1 = k then .addr r.ea
      else readA s k := by
  simp [writeRecord, readA_writeA]

/-- A decode or check that is not ok writes `OK` and `RLEN` alone. -/
theorem notOk_eq (s : State) : notOk s = { s with ok := false, rlen := 0 } := rfl

end Sys2Proof.Machine
end

