-- ==== Sys2Proof/Laws/Frames.lean ====
section
/-! SUPPORT. Frames: for each update, that it changes nothing outside a list that names its part. A frame of a
command is a chain of these. -/

namespace Sys2Proof.Machine

theorem OnlyChanges.refl (ps : List Part) (s : State) : OnlyChanges ps s s :=
  ⟨fun _ _ => rfl, fun _ _ => rfl, fun _ _ => rfl, fun _ _ => rfl, fun _ => rfl, fun _ => rfl, fun _ => rfl,
    fun _ => rfl, fun _ => rfl, fun _ => rfl, fun _ => rfl, fun _ => rfl, fun _ => ⟨rfl, rfl, rfl⟩, fun _ _ => rfl,
    rfl, rfl⟩

theorem OnlyChanges.writeX {ps : List Part} {s u : State} (h : OnlyChanges ps s u) (i : XReg) (v : U128)
    (hm : Part.x i ∈ ps) : OnlyChanges ps s (Machine.writeX u i v) :=
  { h with
    x := fun r hr => by
      have hne : i ≠ r := by rintro rfl; exact hr hm
      rw [readX_writeX, if_neg hne]
      exact h.x r hr }

theorem OnlyChanges.writeA {ps : List Part} {s u : State} (h : OnlyChanges ps s u) (i : AReg) (v : IPVal)
    (hm : Part.a i ∈ ps) : OnlyChanges ps s (Machine.writeA u i v) :=
  { h with
    a := fun r hr => by
      have hne : i ≠ r := by rintro rfl; exact hr hm
      rw [readA_writeA, if_neg hne]
      exact h.a r hr }

theorem OnlyChanges.writeP {ps : List Part} {s u : State} (h : OnlyChanges ps s u) (i : PReg) (v : IPPfx)
    (hm : Part.p i ∈ ps) : OnlyChanges ps s (Machine.writeP u i v) :=
  { h with
    p := fun r hr => by
      have hne : i ≠ r := by rintro rfl; exact hr hm
      rw [readP_writeP, if_neg hne]
      exact h.p r hr }

theorem OnlyChanges.writeQ {ps : List Part} {s u : State} (h : OnlyChanges ps s u) (i : QReg) (v : RefPfx)
    (hm : Part.q i ∈ ps) : OnlyChanges ps s (Machine.writeQ u i v) :=
  { h with
    q := fun r hr => by
      have hne : i ≠ r := by rintro rfl; exact hr hm
      rw [readQ_writeQ, if_neg hne]
      exact h.q r hr }

theorem OnlyChanges.setC {ps : List Part} {s u : State} (h : OnlyChanges ps s u) (b : Bool)
    (hm : Part.c ∈ ps) : OnlyChanges ps s (Machine.setC u b) :=
  { h with c := fun hn => absurd hm hn }

theorem OnlyChanges.setT {ps : List Part} {s u : State} (h : OnlyChanges ps s u) (b : Bool)
    (hm : Part.t ∈ ps) : OnlyChanges ps s (Machine.setT u b) :=
  { h with t := fun hn => absurd hm hn }

theorem OnlyChanges.setOK {ps : List Part} {s u : State} (h : OnlyChanges ps s u) (b : Bool)
    (hm : Part.ok ∈ ps) : OnlyChanges ps s (Machine.setOK u b) :=
  { h with ok := fun hn => absurd hm hn }

theorem OnlyChanges.setCC {ps : List Part} {s u : State} (h : OnlyChanges ps s u) (r : CmpResult)
    (hm : Part.cc ∈ ps) : OnlyChanges ps s (Machine.setCC u r) :=
  { h with cc := fun hn => absurd hm hn }

theorem OnlyChanges.setBufLen {ps : List Part} {s u : State} (h : OnlyChanges ps s u) (v : BitVec 9)
    (hm : Part.bufLen ∈ ps) : OnlyChanges ps s (Machine.setBufLen u v) :=
  { h with bufLen := fun hn => absurd hm hn }

theorem OnlyChanges.setLenCfg {ps : List Part} {s u : State} (h : OnlyChanges ps s u) (v : BitVec 16)
    (hm : Part.lenCfg ∈ ps) : OnlyChanges ps s (Machine.setLenCfg u v) :=
  { h with lenCfg := fun hn => absurd hm hn }

theorem OnlyChanges.setRLen {ps : List Part} {s u : State} (h : OnlyChanges ps s u) (n : Nat)
    (hm : Part.rlen ∈ ps) : OnlyChanges ps s (Machine.setRLen u n) :=
  { h with rlen := fun hn => absurd hm hn }

theorem OnlyChanges.setIt {ps : List Part} {s u : State} (h : OnlyChanges ps s u) (it : Iter)
    (hm : Part.it ∈ ps) : OnlyChanges ps s (Machine.setIt u it) :=
  { h with it := fun hn => absurd hm hn }

theorem OnlyChanges.setBuf_writeBytes {ps : List Part} {s u : State} (h : OnlyChanges ps s u) (i : Nat)
    (B : List Byte) (hw : u.buf.wf) (hf : i + B.length ≤ Config.bufSize)
    (hm : ∀ j < B.length, Part.buf (i + j) ∈ ps) : OnlyChanges ps s (setBuf u (u.buf.writeBytes i B)) :=
  { h with
    buf := fun k hk => by
      simp only [setBuf_buf]
      rw [Memory.read_writeBytes _ _ _ _ hw hf, dif_neg]
      · exact h.buf k hk
      · intro hc
        have := hm (k - i) (by omega)
        rw [show i + (k - i) = k by omega] at this
        exact hk this }

theorem buf_mem_bytesAt (i n j : Nat) (h : j < n) : Part.buf (i + j) ∈ bytesAt i n :=
  List.mem_map.2 ⟨j, by simpa using h, rfl⟩

/-- From a state a command leaves to the statement that it completes there. -/
theorem CompletesWith.intro {i : Instr} {s : State} {ps : List Part} {post : State → Prop} (t : State)
    (he : exec i s = .next t) (hp : post t) (hf : OnlyChanges ps s t) : CompletesWith i s ps post :=
  ⟨t, he, hp, hf⟩

end Sys2Proof.Machine
end

