-- ==== Sys2Proof/Laws/Inv.lean ====
section
/-! SUPPORT. The invariant of Safety.lean under each update of the state, and the child of a masked prefix. -/

namespace Sys2Proof.Machine

/-- An update that writes nothing the invariant speaks of keeps it. -/
theorem State.Inv.congr {s u : State} (h : s.Inv) (e : u.buf = s.buf ∧ (∀ r, readP u r = readP s r) ∧
    (∀ r, readQ u r = readQ s r) ∧ u.it = s.it ∧ u.bufLen = s.bufLen ∧ u.rlen = s.rlen ∧ u.fault = s.fault ∧
    u.fcause = s.fcause ∧ u.fcmd = s.fcmd) : u.Inv := by
  obtain ⟨h1, h2, h3, h4, h5, h6, h7, h8⟩ := h
  obtain ⟨a, b, c, d, e, f, g, i, j⟩ := e
  exact ⟨a ▸ h1, fun r => b r ▸ h2 r, fun r => c r ▸ h3 r, d ▸ h4, e ▸ h5, f ▸ h6, by rw [g, i, j]; exact h7,
    by rw [g, i]; exact h8⟩

theorem State.Inv.enterFault {s : State} (h : s.Inv) (c : Cause) (w : CmdWord) :
    (Machine.enterFault s c w).Inv :=
  { h with
    running := fun h => by simp at h
    faulted := fun _ => ⟨c, rfl⟩ }

theorem State.Inv.writeP {s : State} (h : s.Inv) (r : PReg) (v : IPPfx) (hv : v.valid) :
    (Machine.writeP s r v).Inv :=
  { h with
    p := fun k => by
      rw [readP_writeP]
      split
      · exact hv
      · exact h.p k }

theorem State.Inv.writeQ {s : State} (h : s.Inv) (r : QReg) (v : RefPfx) (hv : v.valid) :
    (Machine.writeQ s r v).Inv :=
  { h with
    q := fun k => by
      rw [readQ_writeQ]
      split
      · exact hv
      · exact h.q k }

theorem State.Inv.setBuf_writeBytes {s : State} (h : s.Inv) (i : Nat) (B : List Byte)
    (hf : i + B.length ≤ Config.bufSize) : (setBuf s (s.buf.writeBytes i B)).Inv :=
  { h with buf := s.buf.wf_writeBytes i B h.buf hf }

theorem State.Inv.setRLen {s : State} (h : s.Inv) (n : Nat) (hn : n ≤ 68) : (Machine.setRLen s n).Inv :=
  { h with rlen := by simp; omega }

theorem State.Inv.setBufLen {s : State} (h : s.Inv) (v : BitVec 9) (hv : v.toNat ≤ 256) :
    (Machine.setBufLen s v).Inv :=
  { h with bufLen := hv }

theorem State.Inv.setIt {s : State} (h : s.Inv) (it : Iter) (hn : it.valid) : (Machine.setIt s it).Inv :=
  { h with it := hn }

/-- A stopped iterator stays valid. -/
theorem Iter.valid_stop (it : Iter) (h : it.valid) : ({ it with active := false } : Iter).valid :=
  ⟨h.base, h.idx, fun h => by simp at h⟩

/-- Masking to the top `k` of `W` bits clears the low `W - k`. -/
theorem and_topMask_mod (x : U128) (W k : Nat) (hk : k ≤ W) (hW : W ≤ 128) :
    (x &&& topMask W k).toNat % 2 ^ (W - k) = 0 := by
  unfold topMask
  split
  · simp
  · rw [BitVec.toNat_and, BitVec.toNat_ofNat]
    have : ((2 ^ k - 1) * 2 ^ (W - k)) < 2 ^ 128 := by
      calc _ < 2 ^ k * 2 ^ (W - k) :=
            Nat.mul_lt_mul_of_pos_right (by have := Nat.two_pow_pos k; omega) (by positivity)
        _ = 2 ^ W := by rw [← pow_add]; congr 1; omega
        _ ≤ _ := Nat.pow_le_pow_right (by norm_num) hW
    rw [Nat.mod_eq_of_lt this, Nat.and_mod_two_pow]
    simp

/-- Cutting a number to an address keeps low zero bits. -/
theorem ip_mod (f : Family) (x : U128) (n : Nat) (hn : n ≤ 8 * f.len) (h : x.toNat % 2 ^ n = 0) :
    (ip f x).num.toNat % 2 ^ n = 0 := by
  rw [num_ip, Nat.mod_mod_of_dvd _ (Nat.pow_dvd_pow 2 hn), h]

/-- A child of a masked prefix is masked (44_subnets.md R291). -/
theorem child_valid (A : IPAddr) (k : Fin 129) (l i : Nat) (hA : IPPfx.valid { addr := .addr A, bits := k })
    (h : k.val + l ≤ 8 * A.len) : (child A k.val l i).valid := by
  have hl := IPAddr.len_le A
  simp only [IPPfx.valid, child] at hA ⊢
  have e : (Fin.ofNat 129 (k.val + l)).val = k.val + l := by simp [Fin.ofNat]; omega
  rw [e, ip_len, show A.family.len = A.len from rfl]
  refine ⟨h, ip_mod _ _ _ (by rw [show A.family.len = A.len from rfl]; omega) ?_⟩
  rw [BitVec.toNat_or, Nat.or_mod_two_pow]
  have h1 : A.num.toNat % 2 ^ (8 * A.len - (k.val + l)) = 0 :=
    Nat.mod_eq_zero_of_dvd (Nat.dvd_trans (Nat.pow_dvd_pow 2 (by omega)) (Nat.dvd_of_mod_eq_zero hA.2))
  have h2 : (if i = 0 then (0 : U128) else BitVec.ofNat 128 (i * 2 ^ (8 * A.len - k.val - l))).toNat %
      2 ^ (8 * A.len - (k.val + l)) = 0 := by
    split
    · simp
    · rw [BitVec.toNat_ofNat, Nat.mod_mod_of_dvd _ (Nat.pow_dvd_pow 2 (by omega)),
        show 8 * A.len - k.val - l = 8 * A.len - (k.val + l) by omega]
      simp
  rw [h1, h2]
  rfl

end Sys2Proof.Machine
end

