-- ==== Sys2Proof/Laws/PerInstr.lean ====
section
/-! SUPPORT. A property of each instruction as syntax, one lemma per constructor: the fields of a well-formed
command decode to it. -/

namespace Sys2Proof.Laws.FieldsRoundTrip

/-- The fields the encoder writes for a well-formed command are the fields the decoder reads it from
(30_encoding.md R97). -/
def Statement (i : Instr) : Prop := i.wf = true → decodeFields (encodeFields i) = .ok i

/-- Format I: the immediate is put together from the bits it was cut into (30_encoding.md R92). -/
theorem imm16_formatI (op : BitVec 8) (rd rs1 : BitVec 4) (imm : BitVec 16) :
    (formatI op rd rs1 imm).imm16 = imm := by
  apply BitVec.eq_of_getLsbD_eq
  intro k hk
  simp only [formatI, Fields.imm16, BitVec.getLsbD_append, BitVec.getLsbD_extractLsb']
  by_cases h8 : k < 8
  · simp [h8]
  · rcases Nat.lt_or_ge k 12 with h12 | h12
    · simp [h8, show k - 8 < 4 by omega, show 8 + (k - 8) = k by omega]
    · simp [h8, show ¬ k - 8 < 4 by omega, show k - 8 - 4 < 4 by omega, show 12 + (k - 8 - 4) = k by omega]

theorem legalWidth_of_wf (w : Imm8) (h : w.toNat ∈ [8, 16, 32, 64]) : legalWidth w = true := by
  simp only [List.mem_cons, List.not_mem_nil, or_false] at h
  have : w = 8 ∨ w = 16 ∨ w = 32 ∨ w = 64 := by bv_omega
  rcases this with rfl | rfl | rfl | rfl <;> rfl

theorem legalFormat_of_wf (fmt : Imm8) (h : fmt.toNat < 2) : legalFormat fmt = true := by
  have : fmt = 0 ∨ fmt = 1 := by bv_omega
  rcases this with rfl | rfl <;> rfl

theorem nop : Statement (.nop) := fun _ => rfl

theorem li (rd : XReg) (imm : Imm16) : Statement (.li rd imm) := fun _ => by
  show Except.ok (Instr.li rd (formatI _ _ _ imm).imm16) = _
  rw [imm16_formatI]

theorem mov (rd : XReg) (rs1 : XReg) : Statement (.mov rd rs1) := fun _ => rfl

theorem csrr (rd : XReg) (csr : Csr) : Statement (.csrr rd csr) := fun _ => by
  show accept ((formatI _ _ _ 0).imm16 == 0) true _ = _
  rw [imm16_formatI]
  rfl

theorem csrwi (csr : Csr) (imm : Imm16) : Statement (.csrwi csr imm) := fun _ => by
  show Except.ok (Instr.csrwi csr (formatI _ _ _ imm).imm16) = _
  rw [imm16_formatI]

theorem clc : Statement (.clc) := fun _ => rfl

theorem stc : Statement (.stc) := fun _ => rfl

theorem add (rd : XReg) (rs1 : XReg) (rs2 : XReg) : Statement (.add rd rs1 rs2) := fun _ => rfl

theorem addc (rd : XReg) (rs1 : XReg) (rs2 : XReg) : Statement (.addc rd rs1 rs2) := fun _ => rfl

theorem sub (rd : XReg) (rs1 : XReg) (rs2 : XReg) : Statement (.sub rd rs1 rs2) := fun _ => rfl

theorem subb (rd : XReg) (rs1 : XReg) (rs2 : XReg) : Statement (.subb rd rs1 rs2) := fun _ => rfl

theorem mul (rd : XReg) (rs1 : XReg) (rs2 : XReg) : Statement (.mul rd rs1 rs2) := fun _ => rfl

theorem and (rd : XReg) (rs1 : XReg) (rs2 : XReg) : Statement (.and rd rs1 rs2) := fun _ => rfl

theorem or (rd : XReg) (rs1 : XReg) (rs2 : XReg) : Statement (.or rd rs1 rs2) := fun _ => rfl

theorem xor (rd : XReg) (rs1 : XReg) (rs2 : XReg) : Statement (.xor rd rs1 rs2) := fun _ => rfl

theorem andn (rd : XReg) (rs1 : XReg) (rs2 : XReg) : Statement (.andn rd rs1 rs2) := fun _ => rfl

theorem not (rd : XReg) (rs1 : XReg) : Statement (.not rd rs1) := fun _ => rfl

theorem lshi (rd : XReg) (rs1 : XReg) (n : Imm8) : Statement (.lshi rd rs1 n) := fun h => by
  show accept true (legalShift n) _ = _
  rw [show legalShift n = true from h]
  rfl

theorem rshi (rd : XReg) (rs1 : XReg) (n : Imm8) : Statement (.rshi rd rs1 n) := fun h => by
  show accept true (legalShift n) _ = _
  rw [show legalShift n = true from h]
  rfl

theorem lsh (rd : XReg) (rs1 : XReg) (rs2 : XReg) : Statement (.lsh rd rs1 rs2) := fun _ => rfl

theorem rsh (rd : XReg) (rs1 : XReg) (rs2 : XReg) : Statement (.rsh rd rs1 rs2) := fun _ => rfl

theorem cmp (rs1 : XReg) (rs2 : XReg) : Statement (.cmp rs1 rs2) := fun _ => rfl

theorem clz (rd : XReg) (rs1 : XReg) : Statement (.clz rd rs1) := fun _ => rfl

theorem ctz (rd : XReg) (rs1 : XReg) : Statement (.ctz rd rs1) := fun _ => rfl

theorem popcnt (rd : XReg) (rs1 : XReg) : Statement (.popcnt rd rs1) := fun _ => rfl

theorem bitlen (rd : XReg) (rs1 : XReg) : Statement (.bitlen rd rs1) := fun _ => rfl

theorem bit (rs1 : XReg) (n : Imm8) : Statement (.bit rs1 n) := fun h => by
  show accept true (legalShift n) _ = _
  rw [show legalShift n = true from h]
  rfl

theorem cvt (rd : XReg) (rs1 : XReg) (w : Imm8) : Statement (.cvt rd rs1 w) := fun h => by
  show accept true (legalWidth w) _ = _
  rw [legalWidth_of_wf w (of_decide_eq_true h)]
  rfl

theorem trunc (rd : XReg) (rs1 : XReg) (w : Imm8) : Statement (.trunc rd rs1 w) := fun h => by
  show accept true (legalWidth w) _ = _
  rw [legalWidth_of_wf w (of_decide_eq_true h)]
  rfl

theorem ldbe (rd : XReg) (off : Imm8) : Statement (.ldbe rd off) := fun _ => rfl

theorem ldle (rd : XReg) (off : Imm8) : Statement (.ldle rd off) := fun _ => rfl

theorem stbe (rs1 : XReg) (off : Imm8) : Statement (.stbe rs1 off) := fun _ => rfl

theorem stle (rs1 : XReg) (off : Imm8) : Statement (.stle rs1 off) := fun _ => rfl

theorem bswap (rd : XReg) (rs1 : XReg) : Statement (.bswap rd rs1) := fun _ => rfl

theorem ald4 (rd : AReg) (off : Imm8) : Statement (.ald4 rd off) := fun _ => rfl

theorem ald16 (rd : AReg) (off : Imm8) : Statement (.ald16 rd off) := fun _ => rfl

theorem ast4 (rs1 : AReg) (off : Imm8) : Statement (.ast4 rs1 off) := fun _ => rfl

theorem ast16 (rs1 : AReg) (off : Imm8) : Statement (.ast16 rs1 off) := fun _ => rfl

theorem afromu32 (rd : AReg) (rs1 : XReg) : Statement (.afromu32 rd rs1) := fun _ => rfl

theorem afromu128 (rd : AReg) (rs1 : XReg) : Statement (.afromu128 rd rs1) := fun _ => rfl

theorem atou32 (rd : XReg) (rs1 : AReg) : Statement (.atou32 rd rs1) := fun _ => rfl

theorem atou128 (rd : XReg) (rs1 : AReg) : Statement (.atou128 rd rs1) := fun _ => rfl

theorem atou128c (rd : XReg) (rs1 : AReg) : Statement (.atou128c rd rs1) := fun _ => rfl

theorem is4 (rs1 : AReg) : Statement (.is4 rs1) := fun _ => rfl

theorem is6 (rs1 : AReg) : Statement (.is6 rs1) := fun _ => rfl

theorem is4in6 (rs1 : AReg) : Statement (.is4in6 rs1) := fun _ => rfl

theorem as4in6 (rd : AReg) (rs1 : AReg) : Statement (.as4in6 rd rs1) := fun _ => rfl

theorem un4in6 (rd : AReg) (rs1 : AReg) : Statement (.un4in6 rd rs1) := fun _ => rfl

theorem aor (rd : AReg) (rs1 : AReg) (rs2 : AReg) : Statement (.aor rd rs1 rs2) := fun _ => rfl

theorem aand (rd : AReg) (rs1 : AReg) (rs2 : AReg) : Statement (.aand rd rs1 rs2) := fun _ => rfl

theorem axor (rd : AReg) (rs1 : AReg) (rs2 : AReg) : Statement (.axor rd rs1 rs2) := fun _ => rfl

theorem anot (rd : AReg) (rs1 : AReg) : Statement (.anot rd rs1) := fun _ => rfl

theorem aadd (rd : AReg) (rs1 : AReg) (rs2 : AReg) : Statement (.aadd rd rs1 rs2) := fun _ => rfl

theorem acmp (rs1 : AReg) (rs2 : AReg) : Statement (.acmp rs1 rs2) := fun _ => rfl

theorem abyte (rd : XReg) (rs1 : AReg) (idx : Imm8) : Statement (.abyte rd rs1 idx) := fun _ => rfl

theorem abits4 (rd : AReg) (n : Imm8) : Statement (.abits4 rd n) := fun _ => rfl

theorem abits16 (rd : AReg) (n : Imm8) : Statement (.abits16 rd n) := fun _ => rfl

theorem anum4 (rd : AReg) (rs1 : XReg) : Statement (.anum4 rd rs1) := fun _ => rfl

theorem anum16 (rd : AReg) (rs1 : XReg) : Statement (.anum16 rd rs1) := fun _ => rfl

theorem azero4 (rd : AReg) : Statement (.azero4 rd) := fun _ => rfl

theorem azero16 (rd : AReg) : Statement (.azero16 rd) := fun _ => rfl

theorem amov (rd : AReg) (rs1 : AReg) : Statement (.amov rd rs1) := fun _ => rfl

theorem ippfx (rd : PReg) (rs1 : AReg) (bits : Imm8) : Statement (.ippfx rd rs1 bits) := fun _ => rfl

theorem ippaddr (rd : AReg) (rs1 : PReg) : Statement (.ippaddr rd rs1) := fun _ => rfl

theorem ippbits (rd : XReg) (rs1 : PReg) : Statement (.ippbits rd rs1) := fun _ => rfl

theorem ipcont (rs1 : PReg) (rs2 : AReg) : Statement (.ipcont rs1 rs2) := fun _ => rfl

theorem ipcontl (rs1 : AReg) (mask : Imm16) : Statement (.ipcontl rs1 mask) := fun _ => by
  show Except.ok (Instr.ipcontl rs1 (formatI _ _ _ mask).imm16) = _
  rw [imm16_formatI]

theorem rpfx (rd : QReg) (rs1 : XReg) (bits : Imm8) : Statement (.rpfx rd rs1 bits) := fun _ => rfl

theorem rpref (rd : XReg) (rs1 : QReg) : Statement (.rpref rd rs1) := fun _ => rfl

theorem rpbits (rd : XReg) (rs1 : QReg) : Statement (.rpbits rd rs1) := fun _ => rfl

theorem rpcont (rs1 : QReg) (rs2 : XReg) : Statement (.rpcont rs1 rs2) := fun _ => rfl

theorem rpcontl (rs1 : XReg) (mask : Imm16) : Statement (.rpcontl rs1 mask) := fun _ => by
  show Except.ok (Instr.rpcontl rs1 (formatI _ _ _ mask).imm16) = _
  rw [imm16_formatI]

theorem subinit (rs1 : PReg) (l : Imm8) : Statement (.subinit rs1 l) := fun _ => rfl

theorem subnext (rd : PReg) : Statement (.subnext rd) := fun _ => rfl

theorem elen (rd : XReg) (fmt : Imm8) : Statement (.elen rd fmt) := fun h => by
  show accept true (legalFormat fmt) _ = _
  rw [legalFormat_of_wf fmt (of_decide_eq_true h)]
  rfl

theorem elenof (rd : XReg) (rs1 : AReg) (rs3 : AReg) (fmt : Imm8) : Statement (.elenof rd rs1 rs3 fmt) := fun h => by
  show accept true (legalFormat fmt) _ = _
  rw [legalFormat_of_wf fmt (of_decide_eq_true h)]
  rfl

theorem encLeg (rd : XReg) (rs1 : AReg) (rs2 : AReg) (rs3 : AReg) (off : Imm8) : Statement (.encLeg rd rs1 rs2 rs3 off) :=
  fun _ => rfl

theorem decLeg (rd : XReg) (rs1 : AReg) (rs2 : AReg) (rs3 : AReg) (off : Imm8) : Statement (.decLeg rd rs1 rs2 rs3 off) :=
  fun _ => rfl

theorem encCur (rd : XReg) (rs1 : AReg) (rs2 : AReg) (rs3 : AReg) (off : Imm8) : Statement (.encCur rd rs1 rs2 rs3 off) :=
  fun _ => rfl

theorem chkCur (off : Imm8) : Statement (.chkCur off) := fun _ => rfl

theorem decCur (rd : XReg) (rs1 : AReg) (rs2 : AReg) (rs3 : AReg) (off : Imm8) : Statement (.decCur rd rs1 rs2 rs3 off) :=
  fun _ => rfl

end Sys2Proof.Laws.FieldsRoundTrip
end

