-- ==== Sys2Proof/Tests/Slice0.lean ====
section
/-! SUPPORT. Tests: ill-formed terms the check refuses, the decoding of words the spec writes out, single steps whose
results 95_test_vectors.md gives, and for every statement a state that meets its hypotheses. -/

namespace Sys2Proof.Tests

open Sys2Proof.Machine

/-! ### Well-formedness: an ill-formed term for each check, refused, and the last legal value, accepted -/

theorem test_wf_shift : (Instr.lshi 1 2 128).wf = false ∧ (Instr.lshi 1 2 127).wf = true ∧
    (Instr.rshi 1 2 255).wf = false ∧ (Instr.rshi 1 2 127).wf = true := by decide

theorem test_wf_bit : (Instr.bit 1 128).wf = false ∧ (Instr.bit 1 127).wf = true := by decide

theorem test_wf_width : (Instr.cvt 1 2 12).wf = false ∧ (Instr.cvt 1 2 64).wf = true ∧
    (Instr.trunc 1 2 0).wf = false ∧ (Instr.trunc 1 2 8).wf = true := by decide

theorem test_wf_format : (Instr.elen 1 2).wf = false ∧ (Instr.elen 1 1).wf = true ∧
    (Instr.elenof 1 2 3 255).wf = false ∧ (Instr.elenof 1 2 3 0).wf = true := by decide

/-! ### Decoding -/

/-- Words of 95_test_vectors.md, one for every command of 46_system.md. -/
theorem test_decode_system :
    decode 0x00000000 = .ok .nop ∧
    decode 0x01100007 = .ok (.li 1 7) ∧
    decode 0x02710000 = .ok (.mov 7 1) ∧
    decode 0x03120000 = .ok (.csrr 1 2) ∧
    decode 0x0410002c = .ok (.csrwi 1 44) ∧
    decode 0x05000000 = .ok .clc ∧
    decode 0x06000000 = .ok .stc := by decide

/-- Words of 95_test_vectors.md, one for every command of 40_uint128_alu.md. -/
theorem test_decode_alu :
    decode 0x10312000 = .ok (.add 3 1 2) ∧
    decode 0x11312000 = .ok (.addc 3 1 2) ∧
    decode 0x12312000 = .ok (.sub 3 1 2) ∧
    decode 0x13312000 = .ok (.subb 3 1 2) ∧
    decode 0x14312000 = .ok (.mul 3 1 2) ∧
    decode 0x15312000 = .ok (.and 3 1 2) ∧
    decode 0x16312000 = .ok (.or 3 1 2) ∧
    decode 0x17312000 = .ok (.xor 3 1 2) ∧
    decode 0x18312000 = .ok (.andn 3 1 2) ∧
    decode 0x19310000 = .ok (.not 3 1) ∧
    decode 0x1a310064 = .ok (.lshi 3 1 100) ∧
    decode 0x1b310064 = .ok (.rshi 3 1 100) ∧
    decode 0x1c312000 = .ok (.lsh 3 1 2) ∧
    decode 0x1d312000 = .ok (.rsh 3 1 2) ∧
    decode 0x1e012000 = .ok (.cmp 1 2) ∧
    decode 0x1f310000 = .ok (.clz 3 1) ∧
    decode 0x20310000 = .ok (.ctz 3 1) ∧
    decode 0x21310000 = .ok (.popcnt 3 1) ∧
    decode 0x22310000 = .ok (.bitlen 3 1) ∧
    decode 0x2301003f = .ok (.bit 1 63) ∧
    decode 0x24310008 = .ok (.cvt 3 1 8) ∧
    decode 0x25310008 = .ok (.trunc 3 1 8) := by decide

/-- Words of 95_test_vectors.md, one for every command of 41_endian.md. -/
theorem test_decode_endian :
    decode 0x30100003 = .ok (.ldbe 1 3) ∧
    decode 0x311000ff = .ok (.ldle 1 255) ∧
    decode 0x320100f0 = .ok (.stbe 1 240) ∧
    decode 0x33010020 = .ok (.stle 1 32) ∧
    decode 0x34310000 = .ok (.bswap 3 1) := by decide

/-- Words of 95_test_vectors.md, one for every command of 42_ip_value.md. -/
theorem test_decode_address :
    decode 0x400000fc = .ok (.ald4 0 252) ∧
    decode 0x411000f1 = .ok (.ald16 1 241) ∧
    decode 0x420000fd = .ok (.ast4 0 253) ∧
    decode 0x43010020 = .ok (.ast16 1 32) ∧
    decode 0x44010000 = .ok (.afromu32 0 1) ∧
    decode 0x45110000 = .ok (.afromu128 1 1) ∧
    decode 0x46100000 = .ok (.atou32 1 0) ∧
    decode 0x47100000 = .ok (.atou128 1 0) ∧
    decode 0x48100000 = .ok (.atou128c 1 0) ∧
    decode 0x49000000 = .ok (.is4 0) ∧
    decode 0x4a000000 = .ok (.is6 0) ∧
    decode 0x4b000000 = .ok (.is4in6 0) ∧
    decode 0x4c200000 = .ok (.as4in6 2 0) ∧
    decode 0x4d320000 = .ok (.un4in6 3 2) ∧
    decode 0x4e201000 = .ok (.aor 2 0 1) ∧
    decode 0x4f201000 = .ok (.aand 2 0 1) ∧
    decode 0x50201000 = .ok (.axor 2 0 1) ∧
    decode 0x51210000 = .ok (.anot 2 1) ∧
    decode 0x52201000 = .ok (.aadd 2 0 1) ∧
    decode 0x53001000 = .ok (.acmp 0 1) ∧
    decode 0x54100003 = .ok (.abyte 1 0 3) ∧
    decode 0x55100018 = .ok (.abits4 1 24) ∧
    decode 0x56100060 = .ok (.abits16 1 96) ∧
    decode 0x57110000 = .ok (.anum4 1 1) ∧
    decode 0x58110000 = .ok (.anum16 1 1) ∧
    decode 0x59500000 = .ok (.azero4 5) ∧
    decode 0x5a500000 = .ok (.azero16 5) ∧
    decode 0x5b700000 = .ok (.amov 7 0) := by decide

/-- Words of 95_test_vectors.md, one for every command of 43_prefix.md. -/
theorem test_decode_prefixes :
    decode 0x6011007f = .ok (.ippfx 1 1 127) ∧
    decode 0x61300000 = .ok (.ippaddr 3 0) ∧
    decode 0x62400000 = .ok (.ippbits 4 0) ∧
    decode 0x63021000 = .ok (.ipcont 2 1) ∧
    decode 0x64000001 = .ok (.ipcontl 0 1) ∧
    decode 0x6501007f = .ok (.rpfx 0 1 127) ∧
    decode 0x66350000 = .ok (.rpref 3 5) ∧
    decode 0x67300000 = .ok (.rpbits 3 0) ∧
    decode 0x68052000 = .ok (.rpcont 5 2) ∧
    decode 0x69010003 = .ok (.rpcontl 1 3) := by decide

/-- Words of 95_test_vectors.md, one for every command of 44_subnets.md. -/
theorem test_decode_subnets :
    decode 0x7000003f = .ok (.subinit 0 63) ∧
    decode 0x71100000 = .ok (.subnext 1) := by decide

/-- Words of 95_test_vectors.md, one for every command of 45_addrrec_codec.md. -/
theorem test_decode_record :
    decode 0x80100000 = .ok (.elen 1 0) ∧
    decode 0x81100200 = .ok (.elenof 1 0 2 0) ∧
    decode 0x825321fa = .ok (.encLeg 5 3 2 1 250) ∧
    decode 0x83634580 = .ok (.decLeg 6 3 4 5 128) ∧
    decode 0x845012d4 = .ok (.encCur 5 0 1 2 212) ∧
    decode 0x85000001 = .ok (.chkCur 1) ∧
    decode 0x86634540 = .ok (.decCur 6 3 4 5 64) := by decide

/-- Words that are no command, for each of the three reasons (95_test_vectors.md). -/
theorem test_decode_refused :
    decode 0xffffffff = .error .unassignedOpcode ∧ decode 0x07000000 = .error .unassignedOpcode ∧
    decode 0x10312100 = .error .reservedField ∧ decode 0x00000001 = .error .reservedField ∧
    decode 0x1a310080 = .error .illegalImmediate ∧ decode 0x2431000c = .error .illegalImmediate ∧
    decode 0x80100002 = .error .illegalImmediate := by decide

/-- A word of the opcode table, as the host numbers it. -/
theorem test_decode_table_word : decodeTableWord 32 0x10312000 = some (.add 3 1 2) := by decide

/-! ### Single steps: vectors of 95_test_vectors.md -/

/-- The reset state with these updates made, in order. -/
def after (l : List (State → State)) : State := l.foldl (fun s f => f s) State.reset

/-- The fault registers as fault entry leaves them. -/
def faulted (code : BitVec 8) (w : BitVec 32) (s : State) : State :=
  { s with fault := true, fcause := code, fcmd := w }

/-- A step that takes the word from the state with the updates `l` leaves that state with the updates `e`, and
nothing else changed. -/
def runs (w : Nat) (l e : List (State → State)) : Bool :=
  match step ((after l).withFetchWord 32 w) with
  | .next t => decide (t = { e.foldl (fun s f => f s) (after l) with reply := .completed })
  | _ => false

/-- V324. -/
theorem test_nop : runs 0x00000000 [(writeX · 1 5), ({ · with c := true })] [] = true := by decide

/-- V325. -/
theorem test_li : runs 0x01200001 [] [(writeX · 2 1)] = true := by decide

/-- V327. -/
theorem test_mov : runs 0x02710000
    [(writeX · 1 0x123456789abcdef0fedcba987654321)]
    [(writeX · 7 0x123456789abcdef0fedcba987654321)] = true := by decide

/-- V328. -/
theorem test_csrr : runs 0x03100000
    [({ · with c := true }), ({ · with ok := true }), ({ · with cc := .gt })]
    [(writeX · 1 21)] = true := by decide

/-- V336. -/
theorem test_csrr_traps : runs 0x03160000 []
    [faulted 11 0x3160000] = true := by decide

/-- V338. -/
theorem test_csrwi : runs 0x0410002c [] [({ · with bufLen := 44 })] = true := by decide

/-- V340. -/
theorem test_csrwi_traps : runs 0x04100101 []
    [faulted 11 0x4100101] = true := by decide

/-- V346. -/
theorem test_clc : runs 0x05000000 [({ · with c := true })] [({ · with c := false })] = true := by decide

/-- V347. -/
theorem test_stc : runs 0x06000000 [] [({ · with c := true })] = true := by decide

/-- V2. -/
theorem test_add : runs 0x10312000
    [(writeX · 1 0xffffffffffffffffffffffffffffffff), (writeX · 2 1), (writeX · 3 7), ({ · with c := false })]
    [(writeX · 3 0)] = true := by decide

/-- V6. -/
theorem test_addc : runs 0x11312000
    [(writeX · 1 0xffffffffffffffffffffffffffffffff), (writeX · 2 0), ({ · with c := true }), (writeX · 3 9)]
    [(writeX · 3 0)] = true := by decide

/-- V10. -/
theorem test_sub : runs 0x12312000
    [(writeX · 1 0), (writeX · 2 1)]
    [(writeX · 3 0xffffffffffffffffffffffffffffffff)] = true := by decide

/-- V13. -/
theorem test_subb : runs 0x13312000
    [(writeX · 1 0), (writeX · 2 0), ({ · with c := true })]
    [(writeX · 3 0xffffffffffffffffffffffffffffffff)] = true := by decide

/-- V18. -/
theorem test_mul : runs 0x14312000
    [(writeX · 1 0x123456789abcdef0fedcba987654321), (writeX · 2 0xffffffffffffffff0000000000000001)]
    [(writeX · 3 0xf13579be02468ace0fedcba987654321)] = true := by decide

/-- V23. -/
theorem test_and : runs 0x15312000
    [(writeX · 1 0x123456789abcdef0fedcba987654321), (writeX · 2 0xffff0000ffff0000ffff0000ffff0000)]
    [(writeX · 3 0x123000089ab00000fed000087650000)] = true := by decide

/-- V24. -/
theorem test_or : runs 0x16312000
    [(writeX · 1 0x123456789abcdef0fedcba987654321), (writeX · 2 0xffff0000ffff0000ffff0000ffff0000)]
    [(writeX · 3 0xffff4567ffffcdefffffcba9ffff4321)] = true := by decide

/-- V25. -/
theorem test_xor : runs 0x17312000
    [(writeX · 1 0x123456789abcdef0fedcba987654321), (writeX · 2 0xffff0000ffff0000ffff0000ffff0000)]
    [(writeX · 3 0xfedc45677654cdeff012cba9789a4321)] = true := by decide

/-- V26. -/
theorem test_andn : runs 0x18312000
    [(writeX · 1 0x123456789abcdef0fedcba987654321), (writeX · 2 0xffff0000ffff0000ffff0000ffff0000)]
    [(writeX · 3 0x45670000cdef0000cba900004321)] = true := by decide

/-- V28. -/
theorem test_not : runs 0x19310000
    [(writeX · 1 0x123456789abcdef0fedcba987654321)]
    [(writeX · 3 0xfedcba9876543210f0123456789abcde)] = true := by decide

/-- V30. -/
theorem test_lshi : runs 0x1a310000
    [(writeX · 1 0x123456789abcdef0fedcba987654321), (writeX · 3 0xdead)]
    [(writeX · 3 0x123456789abcdef0fedcba987654321)] = true := by decide

/-- V38. -/
theorem test_rshi : runs 0x1b310000
    [(writeX · 1 0x123456789abcdef0fedcba987654321), (writeX · 3 0xdead)]
    [(writeX · 3 0x123456789abcdef0fedcba987654321)] = true := by decide

/-- V48. -/
theorem test_lsh : runs 0x1c312000
    [(writeX · 1 1), (writeX · 2 0x7f)]
    [(writeX · 3 0x80000000000000000000000000000000)] = true := by decide

/-- V50. -/
theorem test_lsh_traps : runs 0x1c312000
    [(writeX · 1 1), (writeX · 2 0x80)]
    [faulted 9 0x1c312000] = true := by decide

/-- V52. -/
theorem test_rsh : runs 0x1d312000
    [(writeX · 1 0x80000000000000000000000000000000), (writeX · 2 0x7f)]
    [(writeX · 3 1)] = true := by decide

/-- V54. -/
theorem test_rsh_traps : runs 0x1d312000
    [(writeX · 1 0x123456789abcdef0fedcba987654321), (writeX · 2 0xffffffffffffffffffffffffffffffff)]
    [faulted 9 0x1d312000] = true := by decide

/-- V56. -/
theorem test_cmp : runs 0x1e012000 [(writeX · 1 5), (writeX · 2 7)] [({ · with cc := .lt })] = true := by decide

/-- V65. -/
theorem test_clz : runs 0x1f310000
    [(writeX · 1 0x123456789abcdef0fedcba987654321), (writeX · 3 0xdead)]
    [(writeX · 3 7)] = true := by decide +kernel

/-- V74. -/
theorem test_ctz : runs 0x20310000
    [(writeX · 1 0xa00000000000000000000000000012), (writeX · 3 0xdead)]
    [(writeX · 3 1)] = true := by decide +kernel

/-- V78. -/
theorem test_popcnt : runs 0x21310000
    [(writeX · 1 0x123456789abcdef0fedcba987654321), (writeX · 3 0xdead)]
    [(writeX · 3 64)] = true := by decide +kernel

/-- V84. -/
theorem test_bitlen : runs 0x22310000
    [(writeX · 1 0x123456789abcdef0fedcba987654321), (writeX · 3 0xdead)]
    [(writeX · 3 0x79)] = true := by decide +kernel

/-- V85. -/
theorem test_bit : runs 0x23010040 [(writeX · 1 0x10000000000000000)] [({ · with t := true })] = true := by decide

/-- V89. -/
theorem test_cvt : runs 0x24310020
    [(writeX · 1 0xa000001)]
    [(writeX · 3 0xa000001), ({ · with ok := true })] = true := by decide

/-- V96. -/
theorem test_trunc : runs 0x25310010
    [(writeX · 1 0x123456789abcdef0fedcba987654321)]
    [(writeX · 3 0x4321)] = true := by decide

/-- V100. -/
theorem test_ldbe : runs 0x30100000
    [(fun s => setBuf s (s.buf.writeBytes 0 [0x01, 0x23, 0x45, 0x67, 0x89, 0xab, 0xcd, 0xef, 0x0f, 0xed, 0xcb,
      0xa9, 0x87, 0x65, 0x43, 0x21]))]
    [(writeX · 1 0x123456789abcdef0fedcba987654321)] = true := by decide

/-- V101. -/
theorem test_ldle : runs 0x31100000
    [(fun s => setBuf s (s.buf.writeBytes 0 [0x01, 0x23, 0x45, 0x67, 0x89, 0xab, 0xcd, 0xef, 0x0f, 0xed, 0xcb,
      0xa9, 0x87, 0x65, 0x43, 0x21]))]
    [(writeX · 1 0x21436587a9cbed0fefcdab8967452301)] = true := by decide

/-- V108. -/
theorem test_ldle_traps : runs 0x311000ff []
    [faulted 8 0x311000ff] = true := by decide

/-- V103. -/
theorem test_stbe : runs 0x32010010
    [(writeX · 1 0x123456789abcdef0fedcba987654321)]
    [(fun s => setBuf s (s.buf.writeBytes 16 [0x01, 0x23, 0x45, 0x67, 0x89, 0xab, 0xcd, 0xef, 0x0f, 0xed, 0xcb,
      0xa9, 0x87, 0x65, 0x43, 0x21]))] = true := by decide

/-- V107. -/
theorem test_stbe_traps : runs 0x320100f1
    [(writeX · 1 0x123456789abcdef0fedcba987654321)]
    [faulted 8 0x320100f1] = true := by decide

/-- V104. -/
theorem test_stle : runs 0x33010020
    [(writeX · 1 0x123456789abcdef0fedcba987654321)]
    [(fun s => setBuf s (s.buf.writeBytes 32 [0x21, 0x43, 0x65, 0x87, 0xa9, 0xcb, 0xed, 0x0f, 0xef, 0xcd, 0xab,
      0x89, 0x67, 0x45, 0x23, 0x01]))] = true := by decide

/-- V109. -/
theorem test_bswap : runs 0x34310000
    [(writeX · 1 0x123456789abcdef0fedcba987654321)]
    [(writeX · 3 0x21436587a9cbed0fefcdab8967452301)] = true := by decide

/-- V111. -/
theorem test_ald4 : runs 0x40000000
    [(fun s => setBuf s (s.buf.writeBytes 0 [0x0a, 0x00, 0x00, 0x01]))]
    [(writeA · 0 (.addr (.v4 0x0a000001)))] = true := by decide

/-- V114. -/
theorem test_ald4_traps : runs 0x400000fd []
    [faulted 8 0x400000fd] = true := by decide

/-- V115. -/
theorem test_ald16 : runs 0x41100010
    [(fun s => setBuf s (s.buf.writeBytes 16 [0x20, 0x01, 0x0d, 0xb8, 0x00, 0x00, 0x00, 0x00, 0x00, 0x00, 0x00,
      0x00, 0x00, 0x00, 0x00, 0x01]))]
    [(writeA · 1 (.addr (.v6 0x20010db8000000000000000000000001)))] = true := by decide

/-- V116. -/
theorem test_ald16_traps : runs 0x411000f1 []
    [faulted 8 0x411000f1] = true := by decide

/-- V117. -/
theorem test_ast4 : runs 0x42000008
    [(writeA · 0 (.addr (.v4 0x0a010240)))]
    [(fun s => setBuf s (s.buf.writeBytes 8 [0x0a, 0x01, 0x02, 0x40]))] = true := by decide

/-- V118. -/
theorem test_ast4_traps : runs 0x42000008 []
    [faulted 2 0x42000008] = true := by decide

/-- V122. -/
theorem test_ast16 : runs 0x43010020
    [(writeA · 1 (.addr (.v6 0x20010db8000000000000000000000001)))]
    [(fun s => setBuf s (s.buf.writeBytes 32 [0x20, 0x01, 0x0d, 0xb8, 0x00, 0x00, 0x00, 0x00, 0x00, 0x00, 0x00,
      0x00, 0x00, 0x00, 0x00, 0x01]))] = true := by decide

/-- V123. -/
theorem test_ast16_traps : runs 0x43010020
    [(writeA · 1 (.addr (.v4 0x0a000001)))]
    [faulted 3 0x43010020] = true := by decide

/-- V124. -/
theorem test_afromu32 : runs 0x44010000
    [(writeX · 1 0xa000001)]
    [(writeA · 0 (.addr (.v4 0x0a000001)))] = true := by decide

/-- V126. -/
theorem test_afromu128 : runs 0x45110000
    [(writeX · 1 0x20010db8000000000000000000000001)]
    [(writeA · 1 (.addr (.v6 0x20010db8000000000000000000000001)))] = true := by decide

/-- V128. -/
theorem test_atou32 : runs 0x46100000
    [(writeA · 0 (.addr (.v4 0x0a000001)))]
    [(writeX · 1 0xa000001)] = true := by decide

/-- V129. -/
theorem test_atou32_traps : runs 0x46100000
    [(writeA · 0 (.addr (.v6 0x20010db8000000000000000000000001)))]
    [faulted 3 0x46100000] = true := by decide

/-- V131. -/
theorem test_atou128 : runs 0x47100000
    [(writeA · 0 (.addr (.v4 0x0a000001)))]
    [(writeX · 1 0xffff0a000001)] = true := by decide

/-- V133. -/
theorem test_atou128c : runs 0x48100000
    [(writeA · 0 (.addr (.v4 0x0a000001)))]
    [(writeX · 1 0xa000001)] = true := by decide

/-- V135. -/
theorem test_atou128c_traps : runs 0x48100000 []
    [faulted 2 0x48100000] = true := by decide

/-- V136. -/
theorem test_is4 : runs 0x49000000
    [(writeA · 0 (.addr (.v4 0x0a000001)))]
    [({ · with t := true })] = true := by decide

/-- V138. -/
theorem test_is4_traps : runs 0x49000000 []
    [faulted 2 0x49000000] = true := by decide

/-- V139. -/
theorem test_is6 : runs 0x4a000000
    [(writeA · 0 (.addr (.v6 0x20010db8000000000000000000000001)))]
    [({ · with t := true })] = true := by decide

/-- V141. -/
theorem test_is6_traps : runs 0x4a000000 []
    [faulted 2 0x4a000000] = true := by decide

/-- V142. -/
theorem test_is4in6 : runs 0x4b000000
    [(writeA · 0 (.addr (.v6 0x00000000000000000000ffff0a000001)))]
    [({ · with t := true })] = true := by decide

/-- V146. -/
theorem test_as4in6 : runs 0x4c200000
    [(writeA · 0 (.addr (.v4 0x0a000001)))]
    [(writeA · 2 (.addr (.v6 0x00000000000000000000ffff0a000001)))] = true := by decide

/-- V149. -/
theorem test_un4in6 : runs 0x4d320000
    [(writeA · 2 (.addr (.v6 0x00000000000000000000ffff0a000001)))]
    [(writeA · 3 (.addr (.v4 0x0a000001)))] = true := by decide

/-- V153. -/
theorem test_aor : runs 0x4e201000
    [(writeA · 0 (.addr (.v4 0x0a010200))), (writeA · 1 (.addr (.v4 0x00000040)))]
    [(writeA · 2 (.addr (.v4 0x0a010240)))] = true := by decide

/-- V158. -/
theorem test_aor_traps : runs 0x4e201000
    [(writeA · 0 (.addr (.v4 0x0a000001))), (writeA · 1 (.addr (.v6 0x00000000000000000000ffff0a000001)))]
    [faulted 4 0x4e201000] = true := by decide

/-- V154. -/
theorem test_aand : runs 0x4f201000
    [(writeA · 0 (.addr (.v4 0x0a01024d))), (writeA · 1 (.addr (.v4 0xffffff00)))]
    [(writeA · 2 (.addr (.v4 0x0a010200)))] = true := by decide

/-- V159. -/
theorem test_aand_traps : runs 0x4f201000
    [(writeA · 0 (.addr (.v4 0x0a000001)))]
    [faulted 2 0x4f201000] = true := by decide

/-- V155. -/
theorem test_axor : runs 0x50201000
    [(writeA · 0 (.addr (.v4 0x0a01024d))), (writeA · 1 (.addr (.v4 0x0a010200)))]
    [(writeA · 2 (.addr (.v4 0x0000004d)))] = true := by decide

/-- V160. -/
theorem test_axor_traps : runs 0x50201000
    [(writeA · 1 (.addr (.v6 0x20010db8000000000000000000000001)))]
    [faulted 2 0x50201000] = true := by decide

/-- V157. -/
theorem test_anot : runs 0x51210000
    [(writeA · 1 (.addr (.v4 0xffffff00)))]
    [(writeA · 2 (.addr (.v4 0x000000ff)))] = true := by decide

/-- V161. -/
theorem test_anot_traps : runs 0x51210000 []
    [faulted 2 0x51210000] = true := by decide

/-- V162. -/
theorem test_aadd : runs 0x52201000
    [(writeA · 0 (.addr (.v4 0xffffffff))), (writeA · 1 (.addr (.v4 0x00000001)))]
    [(writeA · 2 (.addr (.v4 0x00000000)))] = true := by decide

/-- V165. -/
theorem test_aadd_traps : runs 0x52201000
    [(writeA · 0 (.addr (.v4 0x0a000001))), (writeA · 1 (.addr (.v6 0x20010db8000000000000000000000001)))]
    [faulted 4 0x52201000] = true := by decide

/-- V166. -/
theorem test_acmp : runs 0x53001000
    [(writeA · 0 (.addr (.v4 0x0a000001))), (writeA · 1 (.addr (.v4 0x0a000002)))]
    [({ · with cc := .lt })] = true := by decide

/-- V171. -/
theorem test_acmp_traps : runs 0x53001000
    [(writeA · 0 (.addr (.v4 0x0a000001)))]
    [faulted 2 0x53001000] = true := by decide

/-- V172. -/
theorem test_abyte : runs 0x54100000 [(writeA · 0 (.addr (.v4 0x0a000001)))] [(writeX · 1 1)] = true := by decide

/-- V174. -/
theorem test_abyte_traps : runs 0x54100004
    [(writeA · 0 (.addr (.v4 0x0a000001)))]
    [faulted 10 0x54100004] = true := by decide

/-- V177. -/
theorem test_abits4 : runs 0x55100000
    [(writeA · 1 (.addr (.v6 0x20010db8000000000000000000000001)))]
    [(writeA · 1 (.addr (.v4 0x00000000)))] = true := by decide

/-- V181. -/
theorem test_abits4_traps : runs 0x55100021
    [(writeA · 1 (.addr (.v6 0x20010db8000000000000000000000001)))]
    [faulted 6 0x55100021] = true := by decide

/-- V182. -/
theorem test_abits16 : runs 0x56100000
    [(writeA · 1 (.addr (.v4 0x0a000001)))]
    [(writeA · 1 (.addr (.v6 0x00000000000000000000000000000000)))] = true := by decide

/-- V186. -/
theorem test_abits16_traps : runs 0x56100081
    [(writeA · 1 (.addr (.v4 0x0a000001)))]
    [faulted 6 0x56100081] = true := by decide

/-- V187. -/
theorem test_anum4 : runs 0x57110000 [(writeX · 1 64)] [(writeA · 1 (.addr (.v4 0x00000040)))] = true := by decide

/-- V189. -/
theorem test_anum16 : runs 0x58110000
    [(writeX · 1 0xa000001)]
    [(writeA · 1 (.addr (.v6 0x0000000000000000000000000a000001)))] = true := by decide

/-- V190. -/
theorem test_azero4 : runs 0x59500000 [] [(writeA · 5 (.addr (.v4 0x00000000)))] = true := by decide

/-- V191. -/
theorem test_azero16 : runs 0x5a500000 []
    [(writeA · 5 (.addr (.v6 0x00000000000000000000000000000000)))] = true := by decide

/-- V192. -/
theorem test_amov : runs 0x5b700000
    [(writeA · 0 (.addr (.v4 0x0a000001)))]
    [(writeA · 7 (.addr (.v4 0x0a000001)))] = true := by decide

/-- V194. -/
theorem test_ippfx : runs 0x60000000
    [(writeA · 0 (.addr (.v4 0x0a01024d)))]
    [(writeP · 0 ⟨(.addr (.v4 0x00000000)), 0⟩)] = true := by decide

/-- V198. -/
theorem test_ippfx_traps : runs 0x60000021
    [(writeA · 0 (.addr (.v4 0x0a01024d)))]
    [faulted 6 0x60000021] = true := by decide

/-- V207. -/
theorem test_ippaddr : runs 0x61300000
    [(writeP · 0 ⟨(.addr (.v4 0x0a010200)), 24⟩)]
    [(writeA · 3 (.addr (.v4 0x0a010200)))] = true := by decide

/-- V208. -/
theorem test_ippaddr_traps : runs 0x61300000 []
    [faulted 2 0x61300000] = true := by decide

/-- V209. -/
theorem test_ippbits : runs 0x62400000
    [(writeP · 0 ⟨(.addr (.v4 0x0a010200)), 24⟩)]
    [(writeX · 4 24)] = true := by decide

/-- V210. -/
theorem test_ippbits_traps : runs 0x62400000 []
    [faulted 2 0x62400000] = true := by decide

/-- V211. -/
theorem test_ipcont : runs 0x63001000
    [(writeP · 0 ⟨(.addr (.v4 0x0a010200)), 24⟩), (writeA · 1 (.addr (.v4 0x0a0102c8)))]
    [({ · with t := true })] = true := by decide

/-- V218. -/
theorem test_ipcont_traps : runs 0x63010000
    [(writeP · 1 ⟨(.addr (.v6 0x20010db8800000000000000000000000)), 33⟩), (writeA · 0 (.addr (.v4 0x0a01024d)))]
    [faulted 6 0x63010000] = true := by decide

/-- V221. -/
theorem test_ipcontl : runs 0x64000003
    [(writeP · 0 ⟨(.addr (.v4 0x0a010200)), 24⟩), (writeP · 1 ⟨(.addr (.v4 0xc0a80000)), 16⟩),
      (writeA · 0 (.addr (.v4 0xc0a80105))), ({ · with t := false })]
    [({ · with t := true })] = true := by decide

/-- V224. -/
theorem test_ipcontl_traps : runs 0x64000005
    [(writeP · 0 ⟨(.addr (.v4 0x0a010200)), 24⟩), (writeP · 1 ⟨(.addr (.v4 0xc0a80000)), 16⟩),
      (writeA · 0 (.addr (.v4 0xc0a80105))), ({ · with t := false })]
    [faulted 2 0x64000005] = true := by decide

/-- V227. -/
theorem test_rpfx : runs 0x65010060
    [(writeX · 1 0x2200330000000000000000deadbeef), (writeQ · 0 ⟨0, 0⟩)]
    [(writeQ · 0 ⟨0x220033000000000000000000000000, 96⟩)] = true := by decide

/-- V232. -/
theorem test_rpfx_traps : runs 0x65010081
    [(writeX · 1 0xffffffffffffffffffffffffffffffff), (writeQ · 0 ⟨0, 0⟩)]
    [faulted 6 0x65010081] = true := by decide

/-- V233. -/
theorem test_rpref : runs 0x66300000
    [(writeQ · 0 ⟨0x220033000000000000000000000000, 96⟩)]
    [(writeX · 3 0x220033000000000000000000000000)] = true := by decide

/-- V234. -/
theorem test_rpbits : runs 0x67300000
    [(writeQ · 0 ⟨0x220033000000000000000000000000, 96⟩)]
    [(writeX · 3 96)] = true := by decide

/-- V236. -/
theorem test_rpcont : runs 0x68002000
    [(writeQ · 0 ⟨0x220033000000000000000000000000, 96⟩), (writeX · 2 0x220033000000000000000012345678)]
    [({ · with t := true })] = true := by decide

/-- V240. -/
theorem test_rpcontl : runs 0x69010003
    [(writeQ · 0 ⟨0x220033000000000000000000000000, 96⟩), (writeQ · 1 ⟨0xa00000000000000000000000000000, 16⟩),
      (writeX · 1 0xa00000000000000000000000000012), ({ · with t := false })]
    [({ · with t := true })] = true := by decide

/-- V244. -/
theorem test_subinit : runs 0x70000002
    [(writeP · 0 ⟨(.addr (.v4 0x0a010200)), 24⟩)]
    [({ · with ok := true }), (fun s => {s with it := {s.it with active := true}}),
      (fun s => {s with it := {s.it with l := 2}}),
      (fun s => {s with it := {s.it with base := ⟨(.addr (.v4 0x0a010200)), 24⟩}})] = true := by decide

/-- V251. -/
theorem test_subinit_traps : runs 0x70000002 []
    [faulted 2 0x70000002] = true := by decide

/-- V252. -/
theorem test_subnext : runs 0x71100000 [({ · with ok := true })] [({ · with ok := false })] = true := by decide

/-- V310. -/
theorem test_elen : runs 0x80100000 [({ · with lenCfg := 0x404 })] [(writeX · 1 28)] = true := by decide

/-- V318. -/
theorem test_elen_traps : runs 0x80100001 []
    [faulted 5 0x80100001] = true := by decide

/-- V320. -/
theorem test_elenof : runs 0x81100201
    [(writeA · 0 (.addr (.v4 0x0a000001))), (writeA · 2 (.addr (.v6 0x20010db8000000000000000000000001)))]
    [(writeX · 1 44)] = true := by decide

/-- V323. -/
theorem test_elenof_traps : runs 0x81100201
    [(writeA · 0 (.addr (.v4 0x0a000001)))]
    [faulted 2 0x81100201] = true := by decide

/-- V267. -/
theorem test_encLeg : runs 0x82501280
    [(writeA · 0 (.addr (.v4 0x0a000001))), (writeA · 1 (.addr (.v4 0xc0a80105))),
      (writeA · 2 (.addr (.v6 0x20010db8000000000000000000000001))), (writeX · 5 0xa00000000000000000000000000012)]
    [({ · with rlen := 40 }), (fun s => setBuf s (s.buf.writeBytes 0x80 [0x0a, 0x00, 0x00, 0x01, 0xc0, 0xa8,
      0x01, 0x05, 0x20, 0x01, 0x0d, 0xb8, 0x00, 0x00, 0x00, 0x00, 0x00, 0x00, 0x00, 0x00, 0x00, 0x00, 0x00, 0x01,
      0x00, 0xa0, 0x00, 0x00, 0x00, 0x00, 0x00, 0x00, 0x00, 0x00, 0x00, 0x00, 0x00, 0x00, 0x00,
      0x12]))] = true := by decide

/-- V276. -/
theorem test_encLeg_traps : runs 0x82502100
    [(writeA · 0 (.addr (.v4 0x0a000001))), (writeA · 1 (.addr (.v4 0xc0a80105))),
      (writeA · 2 (.addr (.v6 0x20010db8000000000000000000000001))), (writeX · 5 0xa00000000000000000000000000012)]
    [faulted 7 0x82502100] = true := by decide

/-- V305. -/
theorem test_decLeg : runs 0x83634580
    [(fun s => setBuf s (s.buf.writeBytes 0x80 [0x0a, 0x00, 0x00, 0x01, 0xc0, 0xa8, 0x01, 0x05, 0x20, 0x01, 0x0d,
      0xb8, 0x00, 0x00, 0x00, 0x00, 0x00, 0x00, 0x00, 0x00, 0x00, 0x00, 0x00, 0x01, 0x00, 0xa0, 0x00, 0x00, 0x00,
      0x00, 0x00, 0x00, 0x00, 0x00, 0x00, 0x00, 0x00, 0x00, 0x00, 0x12])), ({ · with bufLen := 40 }),
      ({ · with lenCfg := 0x1010 }), ({ · with ok := true })]
    [({ · with ok := false })] = true := by decide

/-- V306. -/
theorem test_decLeg_traps : runs 0x83634580
    [(fun s => setBuf s (s.buf.writeBytes 0x80 [0x0a, 0x00, 0x00, 0x01, 0xc0, 0xa8, 0x01, 0x05, 0x20, 0x01, 0x0d,
      0xb8, 0x00, 0x00, 0x00, 0x00, 0x00, 0x00, 0x00, 0x00, 0x00, 0x00, 0x00, 0x01, 0x00, 0xa0, 0x00, 0x00, 0x00,
      0x00, 0x00, 0x00, 0x00, 0x00, 0x00, 0x00, 0x00, 0x00, 0x00, 0x12])), ({ · with bufLen := 40 }),
      ({ · with lenCfg := 0x1005 })]
    [faulted 5 0x83634580] = true := by decide

/-- V269. -/
theorem test_encCur : runs 0x84501000
    [(writeA · 0 (.addr (.v4 0x0a000001))), (writeA · 1 (.addr (.v4 0xc0a80105))), (writeX · 5 1)]
    [({ · with rlen := 32 }), (fun s => setBuf s (s.buf.writeBytes 0 [0x04, 0x04, 0x04, 0x04, 0x0a, 0x00, 0x00,
      0x01, 0xc0, 0xa8, 0x01, 0x05, 0x0a, 0x00, 0x00, 0x01, 0x00, 0x00, 0x00, 0x00, 0x00, 0x00, 0x00, 0x00, 0x00,
      0x00, 0x00, 0x00, 0x00, 0x00, 0x00, 0x01]))] = true := by decide

/-- V272. -/
theorem test_encCur_traps : runs 0x845222bd
    [(writeA · 2 (.addr (.v6 0x20010db8000000000000000000000001))), (writeX · 5 1)]
    [faulted 8 0x845222bd] = true := by decide

/-- V299. -/
theorem test_chkCur : runs 0x85000000
    [({ · with bufLen := 32 }), ({ · with ok := true })]
    [({ · with ok := false })] = true := by decide

/-- V301. -/
theorem test_chkCur_traps : runs 0x85000001
    [({ · with bufLen := 0x100 })]
    [faulted 8 0x85000001] = true := by decide

/-- V282. -/
theorem test_decCur : runs 0x86634540
    [(fun s => setBuf s (s.buf.writeBytes 64 [0x04, 0x04, 0x06, 0x10, 0x0a, 0x00, 0x00, 0x01, 0xc0, 0xa8, 0x01,
      0x05, 0x20, 0x01, 0x0d, 0xb8, 0x00, 0x00, 0x00, 0x00, 0x00, 0x00, 0x00, 0x00, 0x00, 0x00, 0x00, 0x01, 0x00,
      0xa0, 0x00, 0x00, 0x00, 0x00, 0x00, 0x00, 0x00, 0x00, 0x00, 0x00, 0x00, 0x00, 0x00, 0x12])),
      ({ · with bufLen := 43 }), ({ · with ok := true }), ({ · with rlen := 9 }),
      (writeA · 3 (.addr (.v4 0x0a000001)))]
    [({ · with ok := false }), ({ · with rlen := 0 })] = true := by decide

/-- V281. -/
theorem test_decCur_traps : runs 0x86634540
    [(fun s => setBuf s (s.buf.writeBytes 64 [0x04, 0x04, 0x06, 0x10, 0x0a, 0x00, 0x00, 0x01, 0xc0, 0xa8, 0x01,
      0x05, 0x20, 0x01, 0x0d, 0xb8, 0x00, 0x00, 0x00, 0x00, 0x00, 0x00, 0x00, 0x00, 0x00, 0x00, 0x00, 0x01, 0x00,
      0xa0, 0x00, 0x00, 0x00, 0x00, 0x00, 0x00, 0x00, 0x00, 0x00, 0x00, 0x00, 0x00, 0x00, 0x12])),
      ({ · with bufLen := 0xc1 })]
    [faulted 8 0x86634540] = true := by decide

/-! ### Witnesses: for every statement with hypotheses, a state and operands that meet them, clause by clause -/

theorem witness_decodeOfEncode : (Instr.lshi 1 2 127).wf = true ∧ (Instr.cvt 1 2 64).wf = true := by decide

theorem witness_encodeOfDecode : decode 0x84501240 = .ok (.encCur 5 0 1 2 64) := by decide

theorem witness_illegalImmediatesRefused :
    (Instr.bit 1 128).wf = false ∧ (Instr.trunc 1 2 7).wf = false ∧ (Instr.elen 1 2).wf = false := by decide

/-- The running unit with these interactions to come. -/
def running (l : List HostAction) : State := { State.reset with pending := l }

/-- The unit in the fault state with these interactions to come. -/
def stopped (l : List HostAction) : State := { faulted 2 0x49000000 State.reset with pending := l }

theorem witness_illegalWordEntersFault :
    (running [.command 0xffffffff]).fault = false ∧
    (running [.command 0xffffffff]).pending = [.command 0xffffffff] ∧
    decode 0xffffffff = .error .unassignedOpcode := ⟨rfl, rfl, by decide⟩

theorem witness_stepRunsDecodedCommand :
    (running [.command 0x10312000, .sample]).fault = false ∧
    (running [.command 0x10312000, .sample]).pending = [.command 0x10312000, .sample] ∧
    decode 0x10312000 = .ok (.add 3 1 2) := ⟨rfl, rfl, by decide⟩

theorem witness_faultStateIgnoresCommands :
    (stopped []).fault = true ∧ (stopped []).buf.wf ∧
    (stopped [.command 0x10312000]).pending = [.command 0x10312000] ∧
    (stopped [.write 255 7]).pending = [.write 255 7] ∧ (stopped [.read 0]).pending = [.read 0] ∧
    (stopped [.sample]).pending = [.sample] ∧
    ∃ t, step (stopped [.reset]) = .next t ∧ t.fault = false := by
  exact ⟨rfl, by decide, rfl, rfl, rfl, rfl, _, rfl, rfl⟩

theorem witness_faultHeldUntilReset :
    (stopped [.command 0, .write 3 1, .reset]).fault = true ∧
    ∀ a ∈ (stopped [.command 0, .write 3 1, .reset]).pending.take 2, a ≠ .reset := by decide

/-- 70_reset_and_hazards.md R411, last row: the unit in the reset state, which is what the host gets back. -/
theorem test_reset_reply : step (stopped [.reset, .sample]) = .next { State.reset with
    pending := [.sample], reply := .resetState } := rfl

theorem witness_hostInteractions :
    (running []).buf.wf ∧ (running [.write 255 7]).pending = [.write 255 7] ∧
    (running [.read 0]).pending = [.read 0] ∧ (running [.sample]).pending = [.sample] ∧
    (running [.reset]).pending = [.reset] ∧ (running []).pending = [] := ⟨by decide, rfl, rfl, rfl, rfl, rfl⟩

/-- A prefix register value: `10.1.2.0/24`. -/
def net24 : IPPfx := { addr := .addr (.v4 0x0a010200), bits := 24 }

/-- A state with a record's registers, prefixes and an enumeration under way. -/
def busy : State :=
  { after [(writeX · 1 5), (writeX · 2 200), (writeA · 0 (.addr (.v4 0x0a000001))),
      (writeA · 1 (.addr (.v4 0xc0a80105))), (writeA · 2 (.addr (.v6 0x20010db8000000000000000000000001))),
      (writeP · 0 net24), (writeQ · 0 { ref := 0x00a00000000000000000000000000000, bits := 16 })] with
    it := { active := true, base := net24, l := 2, idx := 3 }, bufLen := 44, lenCfg := 0x1004 }

theorem busy_prefixes : ∀ r, (readP busy r).valid := by
  have : ∀ r, readP busy r = net24 ∨ readP busy r = IPPfx.never := by decide
  intro r
  rcases this r with h | h <;> rw [h]
  · exact ⟨by decide, by decide⟩
  · rfl

theorem busy_refPrefixes : ∀ r, (readQ busy r).valid := by
  unfold RefPfx.valid
  decide

theorem busy_iterator : busy.it.valid :=
  ⟨⟨by decide, by decide⟩, by decide, fun _ => ⟨.v4 0x0a010200, rfl, by decide⟩⟩

theorem witness_stepKeepsInv : busy.Inv ∧ ∃ t, step busy = .next t :=
  ⟨⟨by decide, busy_prefixes, busy_refPrefixes, busy_iterator, by decide, by decide, fun _ => ⟨rfl, rfl⟩,
    fun h => by simp [busy, after, State.reset, writeX, writeA, writeP, writeQ] at h⟩, _, rfl⟩

theorem witness_stepAlwaysAnswers : busy.Inv := witness_stepKeepsInv.1

theorem witness_faultEntryChangesNothingElse :
    let s := { busy with pending := [.command 0x1c312000] }
    s.fault = false ∧ s.pending = .command 0x1c312000 :: [] ∧ ∃ t, step s = .next t ∧ t.fault = true :=
  ⟨rfl, rfl, _, rfl, rfl⟩

theorem witness_flagsWrittenOnlyByTheirCommands :
    ∃ t, exec (.add 3 1 2) busy = .next t ∧ writesC (.add 3 1 2) = false ∧ writesT (.add 3 1 2) = false ∧
      writesOK (.add 3 1 2) = false ∧ writesCC (.add 3 1 2) = false := ⟨_, rfl, rfl, rfl, rfl, rfl⟩

theorem witness_registersWrittenOnlyByTheirCommands :
    ∃ t, exec (.add 3 1 2) busy = .next t ∧ xDest (.add 3 1 2) ≠ some 4 ∧ (3 : AReg) ∉ aDests (.add 3 1 2) ∧
      pDest (.add 3 1 2) ≠ some 3 ∧ qDest (.add 3 1 2) ≠ some 3 := ⟨_, rfl, by decide⟩

theorem witness_controlStateWrittenOnlyByItsCommands :
    ∃ t, exec (.csrwi 1 256) busy = .next t ∧ (∀ imm, Instr.csrwi 1 256 ≠ .csrwi 2 imm) ∧
      writesRLen (.csrwi 1 256) = false ∧ writesIt (.csrwi 1 256) = false ∧ writesBuf (.csrwi 1 256) = false :=
  ⟨_, rfl, by simp, rfl, rfl, rfl⟩

theorem witness_resultsIgnoreTOkCc :
    (∀ rd, Instr.bit 1 0 ≠ .csrr rd 0) ∧ AgreeButTOkCc busy { busy with t := true, ok := true, cc := .gt } ∧
    ∃ t, exec (.bit 1 0) busy = .next t := ⟨by simp, rfl, _, rfl⟩

theorem witness_onlyAddcAndSubbReadC :
    (∀ rd, Instr.add 3 1 2 ≠ .csrr rd 0) ∧ (∀ rd rs1 rs2, Instr.add 3 1 2 ≠ .addc rd rs1 rs2) ∧
    (∀ rd rs1 rs2, Instr.add 3 1 2 ≠ .subb rd rs1 rs2) ∧ AgreeButC busy { busy with c := true } ∧
    ∃ t, exec (.add 3 1 2) busy = .next t := ⟨by simp, by simp, by simp, rfl, _, rfl⟩

theorem witness_neverFaultingCommands :
    neverFaults (.lshi 3 1 127) = true ∧ (Instr.lshi 3 1 127).wf = true ∧ busy.it.valid :=
  ⟨rfl, by decide, busy_iterator⟩

theorem witness_controlRegisterRead : 6 ≤ (6 : Csr).toNat ∧ 6 ≤ (15 : Csr).toNat := by decide

theorem witness_controlRegisterWrite :
    (256 : Imm16).toNat ≤ 256 ∧ 256 < (257 : Imm16).toNat ∧ (0 : Csr) ≠ 1 ∧ (0 : Csr) ≠ 2 := by decide

theorem witness_wideAddAndSubtract : (4 : XReg) ≠ 1 ∧ (4 : XReg) ≠ 3 ∧ (4 : XReg) ≠ 5 := by decide

theorem witness_shiftByImmediate : (127 : Imm8).toNat < 128 ∧ (0 : Imm8).toNat < 128 := by decide

theorem witness_shiftByRegister :
    (readX (after [(writeX · 2 127)]) 2).toNat < 128 ∧ 128 ≤ (readX (after [(writeX · 2 128)]) 2).toNat := by decide

theorem witness_compareAndBitTest : (127 : Imm8).toNat < 128 := by decide

theorem witness_bitCounts :
    let v := readX (after [(writeX · 1 0x12)]) 1
    readX (after []) 1 = 0 ∧ (v.getLsbD 4 = true ∧ ∀ j, 4 < j → v.getLsbD j = false) ∧
    (v.getLsbD 1 = true ∧ ∀ j, j < 1 → v.getLsbD j = false) := by
  refine ⟨by decide, ⟨by decide, fun j hj => ?_⟩, by decide, by decide⟩
  show (0x12 : U128).getLsbD j = false
  exact Nat.testBit_lt_two_pow
    (Nat.lt_of_lt_of_le (by decide : 0x12 < 2 ^ 5) (Nat.pow_le_pow_right (by decide) hj))

theorem witness_convertAndTruncate :
    (8 : Imm8).toNat ∈ [8, 16, 32, 64] ∧ (64 : Imm8).toNat ∈ [8, 16, 32, 64] ∧
    (readX (after [(writeX · 1 255)]) 1).toNat < 2 ^ (8 : Imm8).toNat ∧
    2 ^ (8 : Imm8).toNat ≤ (readX (after [(writeX · 1 256)]) 1).toNat := by decide

theorem witness_loadsPlaceTheBytes : (240 : Imm8).toNat + 16 ≤ 256 ∧ 256 < (241 : Imm8).toNat + 16 := by decide

theorem witness_storesPlaceTheBytes :
    busy.buf.wf ∧ (240 : Imm8).toNat + 16 ≤ 256 ∧ 256 < (241 : Imm8).toNat + 16 := by decide

theorem witness_endianLaws : (List.replicate 16 (0xa5 : Byte)).length = 16 := rfl

theorem witness_loadStoreRoundTrip :
    busy.buf.wf ∧ (0 : Imm8).toNat + 16 ≤ 256 ∧ (240 : Imm8).toNat + 16 ≤ 256 ∧
    (List.replicate 16 (0 : Byte)).length = 16 ∧
    busy.buf.readBytes (0 : Imm8).toNat 16 = List.replicate 16 0 := by decide

theorem witness_addressLoads :
    (252 : Imm8).toNat + 4 ≤ 256 ∧ 256 < (253 : Imm8).toNat + 4 ∧
    (240 : Imm8).toNat + 16 ≤ 256 ∧ 256 < (241 : Imm8).toNat + 16 := by decide

theorem witness_addressStores :
    busy.buf.wf ∧ readA busy 0 = .addr (.v4 0x0a000001) ∧ (IPAddr.v4 0x0a000001).len = 4 ∧
    readA busy 2 = .addr (.v6 0x20010db8000000000000000000000001) ∧
    (IPAddr.v6 0x20010db8000000000000000000000001).len = 16 ∧
    (252 : Imm8).toNat + 4 ≤ 256 ∧ 256 < (253 : Imm8).toNat + 4 ∧
    (240 : Imm8).toNat + 16 ≤ 256 ∧ 256 < (241 : Imm8).toNat + 16 := by decide

theorem witness_addressesFromNumbers :
    (32 : Imm8).toNat ≤ 32 ∧ 32 < (33 : Imm8).toNat ∧ (128 : Imm8).toNat ≤ 128 ∧ 128 < (129 : Imm8).toNat := by
  decide

theorem witness_addressCopyAndMap :
    readA busy 9 = .uninit ∧ readA busy 0 = .addr (.v4 0x0a000001) ∧
    (IPAddr.v4 0x0a000001).bytes.take 12 ≠ mappedHead ∧
    (IPAddr.v6 0x20010db8000000000000000000000001).len = 16 ∧
    (IPAddr.v6 0x0000000000000000ffff0a000001).bytes.take 12 = mappedHead := by decide

theorem witness_numbersFromAddresses :
    readA busy 0 = .addr (.v4 0x0a000001) ∧ (IPAddr.v4 0x0a000001).len = 4 ∧
    readA busy 2 = .addr (.v6 0x20010db8000000000000000000000001) ∧
    (IPAddr.v6 0x20010db8000000000000000000000001).len = 16 ∧
    (3 : Imm8).toNat < (IPAddr.v4 0x0a000001).len ∧ (IPAddr.v4 0x0a000001).len ≤ (4 : Imm8).toNat := by decide

theorem witness_addressPredicates : readA busy 2 = .addr (.v6 0x20010db8000000000000000000000001) := by decide

theorem witness_addressLogicAndAdd :
    readA busy 0 = .addr (.v4 0x0a000001) ∧ readA busy 1 = .addr (.v4 0xc0a80105) ∧
    readA busy 2 = .addr (.v6 0x20010db8000000000000000000000001) ∧
    (IPAddr.v4 0x0a000001).len = (IPAddr.v4 0xc0a80105).len ∧
    (IPAddr.v4 0x0a000001).len ≠ (IPAddr.v6 0x20010db8000000000000000000000001).len := by decide

theorem witness_addressCompare :
    readA busy 0 = .addr (.v4 0x0a000001) ∧
    readA busy 2 = .addr (.v6 0x20010db8000000000000000000000001) := by decide

theorem witness_uninitOperandsTrap :
    (Instr.elenof 1 0 9 1).wf = true ∧ (∃ r ∈ addressOperands (.elenof 1 0 9 1), readA busy r = .uninit) ∧
    (Instr.subinit 9 64).wf = true ∧ prefixOperand (.subinit 9 64) = some 9 ∧ (readP busy 9).addr = .uninit :=
  ⟨by decide, ⟨9, by decide, by decide⟩, by decide, rfl, by decide⟩

theorem witness_prefixFactoryAndAccessors :
    readA busy 0 = .addr (.v4 0x0a000001) ∧ (32 : Imm8).toNat ≤ 8 * (IPAddr.v4 0x0a000001).len ∧
    8 * (IPAddr.v4 0x0a000001).len < (33 : Imm8).toNat ∧ (readP busy 0).addr = .addr (.v4 0x0a010200) := by decide

/-- `10.1.2.0/24` contains `10.1.2.200`. -/
theorem net24_contains : TopBitsAgree 24 (.v4 0x0a010200) (.v4 0x0a0102c8) := by
  have : ∀ j < 32, 8 ≤ j →
      (IPAddr.v4 0x0a010200).num.getLsbD j = (IPAddr.v4 0x0a0102c8).num.getLsbD j := by decide
  exact ⟨rfl, fun j h1 h2 => this j h2 h1⟩

/-- `10.1.2.0/24` does not contain `10.1.3.1`. -/
theorem net24_misses : ¬ TopBitsAgree 24 (.v4 0x0a010200) (.v4 0x0a010301) := fun h =>
  absurd (h.2 8 (by decide) (by decide)) (by decide)

/-- A 16-byte prefix of length 33, which no 4-byte address has. -/
def net33 : IPPfx := { addr := .addr (.v6 0x20010db8800000000000000000000000), bits := 33 }

theorem witness_prefixContainment :
    (readP busy 0).valid ∧
    (readA (writeA busy 3 (.addr (.v4 0x0a0102c8))) 3 = .addr (.v4 0x0a0102c8) ∧
      EntryContains busy (.v4 0x0a0102c8) 0) ∧
    EntryMisses busy (.v4 0x0a010301) 0 ∧ EntryRaises busy (.v4 0x0a010301) 9 .uninitIP ∧
    EntryRaises (writeP busy 1 net33) (.v4 0x0a010301) 1 .prefixRange :=
  ⟨busy_prefixes 0, ⟨by decide, .v4 0x0a010200, by decide, by decide, net24_contains⟩,
    ⟨.v4 0x0a010200, by decide, by decide, net24_misses⟩, .inl ⟨by decide, rfl⟩,
    .inr ⟨.v6 0x20010db8800000000000000000000000, by decide, by decide, rfl⟩⟩

theorem witness_prefixListScan :
    (∀ r, (readP busy r).valid) ∧ readA busy 0 = .addr (.v4 0x0a000001) ∧
    (∀ j < 16, (0x0000 : Imm16).getLsbD j = true → EntryMisses busy (.v4 0x0a000001) (BitVec.ofNat 4 j)) ∧
    (0x0001 : Imm16).getLsbD 0 = true ∧
    (∀ j < 0, (0x0001 : Imm16).getLsbD j = true → EntryMisses busy (.v4 0x0a0102c8) (BitVec.ofNat 4 j)) ∧
    EntryContains busy (.v4 0x0a0102c8) (BitVec.ofNat 4 0) ∧
    (0x8000 : Imm16).getLsbD 15 = true ∧
    (∀ j < 15, (0x8000 : Imm16).getLsbD j = true → EntryMisses busy (.v4 0x0a000001) (BitVec.ofNat 4 j)) ∧
    EntryRaises busy (.v4 0x0a000001) (BitVec.ofNat 4 15) .uninitIP := by
  have h8 : ∀ j < 15, (0x8000 : Imm16).getLsbD j = false := by decide
  exact ⟨busy_prefixes, by decide, fun j hj h => absurd h (by simp), by decide,
    fun j hj => absurd hj (by omega), ⟨.v4 0x0a010200, by decide, by decide, net24_contains⟩, by decide,
    fun j hj h => absurd (h.symm.trans (h8 j hj)) (by simp), .inl ⟨by decide, rfl⟩⟩

theorem witness_refPrefixes :
    (128 : Imm8).toNat ≤ 128 ∧ 128 < (129 : Imm8).toNat ∧ ∀ r, (readQ busy r).valid :=
  ⟨by decide, by decide, busy_refPrefixes⟩

theorem witness_subinitOutcome :
    (readP busy 0).addr = .addr (.v4 0x0a010200) ∧
    ((8 : Imm8).toNat < 64 ∧ (readP busy 0).bits.val + (8 : Imm8).toNat ≤ 8 * (IPAddr.v4 0x0a010200).len) ∧
    8 * (IPAddr.v4 0x0a010200).len < (readP busy 0).bits.val + (9 : Imm8).toNat ∧ 64 ≤ (64 : Imm8).toNat := by
  decide

theorem witness_subnextOutcome :
    busy.it.valid ∧ State.reset.it.valid ∧ State.reset.it.active = false ∧
    (({ busy.it with idx := 4 } : Iter).valid ∧ (4 : BitVec 64).toNat = 2 ^ busy.it.l.toNat) ∧
    busy.it.active = true ∧ busy.it.idx.toNat < 2 ^ busy.it.l.toNat ∧
    busy.it.base.addr = .addr (.v4 0x0a010200) :=
  ⟨busy_iterator, ⟨rfl, by decide, fun h => by simp [State.reset] at h⟩, rfl,
    ⟨⟨busy_iterator.base, by decide, busy_iterator.room⟩, by decide⟩, rfl, by decide, rfl⟩

theorem witness_subnetsEnumerated :
    (readP busy 0).addr = .addr (.v4 0x0a010200) ∧ (2 : Imm8).toNat < 64 ∧
    (readP busy 0).bits.val + (2 : Imm8).toNat ≤ 8 * (IPAddr.v4 0x0a010200).len ∧
    [(1 : PReg), 2, 0].length < 2 ^ (2 : Imm8).toNat ∧ [(1 : PReg), 1, 2, 0].length = 2 ^ (2 : Imm8).toNat := by
  decide

theorem witness_subnetsPartition :
    net24.valid ∧ 8 < 64 ∧ net24.bits.val + 8 ≤ 8 * (IPAddr.v4 0x0a010200).len :=
  ⟨⟨by decide, by decide⟩, by decide, by decide⟩

theorem witness_recordLengths :
    (1 : Imm8).toNat < 2 ∧ (busy.lenCfg.extractLsb' 0 8).toNat = 4 ∧ (busy.lenCfg.extractLsb' 8 8).toNat = 16 ∧
    ¬ (((State.reset.lenCfg.extractLsb' 0 8).toNat = 4 ∨ (State.reset.lenCfg.extractLsb' 0 8).toNat = 16) ∧
      ((State.reset.lenCfg.extractLsb' 8 8).toNat = 4 ∨ (State.reset.lenCfg.extractLsb' 8 8).toNat = 16)) ∧
    readA busy 0 = .addr (.v4 0x0a000001) ∧
    readA busy 2 = .addr (.v6 0x20010db8000000000000000000000001) := by decide

theorem witness_encoders :
    let ea := IPAddr.v4 0x0a000001
    let gw := IPAddr.v6 0x20010db8000000000000000000000001
    busy.buf.wf ∧ readA busy 0 = .addr ea ∧ readA busy 1 = .addr (.v4 0xc0a80105) ∧ readA busy 2 = .addr gw ∧
    ea.len ≠ gw.len ∧ ea.len = (IPAddr.v4 0xc0a80105).len ∧
    (216 : Imm8).toNat + (2 * ea.len + gw.len + 16) ≤ 256 ∧
    256 < (217 : Imm8).toNat + (2 * ea.len + gw.len + 16) ∧
    (212 : Imm8).toNat + (4 + (2 * ea.len + gw.len + 16)) ≤ 256 ∧
    256 < (213 : Imm8).toNat + (4 + (2 * ea.len + gw.len + 16)) := by decide

/-- The header of a record with `EA` of 4 and `GW` of 16 bytes, at the start of `BUF`. -/
def headed : State := setBuf busy (busy.buf.writeBytes 0 [4, 4, 6, 16])

theorem headed_checks : RecordChecks (headed.buf.readBytes (0 : Imm8).toNat headed.bufLen.toNat) 4 16 := by
  unfold RecordChecks ConsistentPair
  decide

theorem short_window (s : State) (off : Imm8) (h : s.bufLen.toNat < 32) (n m : Nat) :
    ¬ RecordChecks (s.buf.readBytes off.toNat s.bufLen.toNat) n m := by
  intro hc
  have hl : ∀ (b : Memory) (i k : Nat), (b.readBytes i k).length = k := by
    intro b i k
    induction k generalizing i with
    | zero => rfl
    | succ k ih => simp [Memory.readBytes, ih]
  have := hc.1
  rw [hl] at this
  omega

theorem witness_checkOutcome :
    256 < (213 : Imm8).toNat + headed.bufLen.toNat ∧ (0 : Imm8).toNat + headed.bufLen.toNat ≤ 256 ∧
    RecordChecks (headed.buf.readBytes (0 : Imm8).toNat headed.bufLen.toNat) 4 16 ∧
    ∀ n m, ¬ RecordChecks (State.reset.buf.readBytes (0 : Imm8).toNat State.reset.bufLen.toNat) n m :=
  ⟨by decide, by decide, headed_checks, short_window State.reset 0 (by decide)⟩

theorem witness_decoders :
    (headed.lenCfg.extractLsb' 0 8).toNat = 4 ∧ (headed.lenCfg.extractLsb' 8 8).toNat = 16 ∧
    ¬ ((State.reset.lenCfg.extractLsb' 0 8).toNat = 4 ∨ (State.reset.lenCfg.extractLsb' 0 8).toNat = 16) ∧
    256 < (213 : Imm8).toNat + headed.bufLen.toNat ∧ (212 : Imm8).toNat + headed.bufLen.toNat ≤ 256 ∧
    2 * 4 + 16 + 16 ≤ headed.bufLen.toNat ∧ (setBufLen headed 39).bufLen.toNat < 2 * 4 + 16 + 16 ∧
    (∀ n m, ¬ RecordChecks (State.reset.buf.readBytes (0 : Imm8).toNat State.reset.bufLen.toNat) n m) ∧
    RecordChecks (headed.buf.readBytes (0 : Imm8).toNat headed.bufLen.toNat) 4 16 :=
  ⟨by decide, by decide, by decide, by decide, by decide, by decide, by decide,
    short_window State.reset 0 (by decide), headed_checks⟩

theorem witness_recordRoundTrip :
    let ea := IPAddr.v4 0x0a000001
    let ip := IPAddr.v4 0xc0a80105
    let gw := IPAddr.v6 0x20010db8000000000000000000000001
    busy.buf.wf ∧ readA busy 0 = .addr ea ∧ readA busy 1 = .addr ip ∧ readA busy 2 = .addr gw ∧ ea.len = ip.len ∧
    (3 : AReg) ≠ 4 ∧ (3 : AReg) ≠ 5 ∧ (4 : AReg) ≠ 5 ∧ (212 : Imm8).toNat + (44 : Imm16).toNat ≤ 256 ∧
    4 + 2 * ea.len + gw.len + 16 ≤ (44 : Imm16).toNat ∧ 2 * ea.len + gw.len + 16 ≤ (40 : Imm16).toNat := by decide

end Sys2Proof.Tests
end

section
/-! The state after reset (10_state.md R40): what each register file reads, and the table as a whole. -/

namespace Sys2Proof.Machine

@[simp] theorem readX_reset (r : XReg) : readX State.reset r = 0 := Vector.getElem_replicate _
@[simp] theorem readA_reset (r : AReg) : readA State.reset r = .uninit := Vector.getElem_replicate _
@[simp] theorem readP_reset (r : PReg) : readP State.reset r = IPPfx.never := Vector.getElem_replicate _
@[simp] theorem readQ_reset (r : QReg) : readQ State.reset r = { ref := 0, bits := 0 } :=
  Vector.getElem_replicate _

/-- Settles O11, row by row of the table of 10_state.md R40: the register files and `BUF` by their read rules, every
other row by the field of `State.reset` that holds it. -/
theorem resetValues : Obligations.ResetValues :=
  ⟨readX_reset, readA_reset, readP_reset, readQ_reset,
    rfl, rfl, rfl, rfl,  -- `C`, `T`, `OK`, `CC`
    rfl, rfl, rfl,       -- `FAULT`, `FCAUSE`, `FCMD`
    rfl, rfl, rfl,       -- `BUFLEN`, `LENCFG`, `RLEN`
    rfl, rfl, rfl, rfl,  -- `it.active`, `it.base`, `it.l`, `it.idx`
    Memory.read_reset⟩

end Sys2Proof.Machine
end

section
/-! Loads and stores in one byte order (20_memory.md R75): reading a byte sequence as a number and writing the number
back gives the sequence (00_scope.md R12), and what each of `LDBE`, `LDLE`, `STBE`, `STLE` does inside `BUF`. -/

namespace Sys2Proof.Machine

/-! ### From bytes to a number and back -/

/-- A shift by `n` whole bytes drops what fits in them and leaves the multiple of `256^n` above. -/
theorem shiftRight_mul_pow_add (k v n : Nat) : (k * 256 ^ n + v) >>> (8 * n) = k + v >>> (8 * n) := by
  rw [Nat.shiftRight_eq_div_pow, Nat.shiftRight_eq_div_pow, pow_mul, Nat.mul_comm k]
  exact Nat.mul_add_div (Nat.pow_pos (by decide)) k v

/-- `be_n(v)` sees only the low `n` bytes of `v`. -/
theorem beBytes_mul_pow_add (n k v : Nat) : beBytes n (k * 256 ^ n + v) = beBytes n v := by
  induction n generalizing k with
  | zero => rfl
  | succ n ih =>
    have hk : k * 256 ^ (n + 1) = k * 256 * 256 ^ n := by ring
    have htop : BitVec.ofNat 8 (k * 256 + v >>> (8 * n)) = BitVec.ofNat 8 (v >>> (8 * n)) := by
      apply BitVec.eq_of_toNat_eq
      simp only [BitVec.toNat_ofNat]
      omega
    simp only [beBytes]
    rw [hk, ih, shiftRight_mul_pow_add, htop]

/-- `be_n(from_be(B)) = B` where `n = len(B)`. -/
theorem beBytes_fromBE (B : List Byte) : beBytes B.length (fromBE B) = B := by
  induction B with
  | nil => rfl
  | cons b bs ih =>
    have hlow : fromBE bs >>> (8 * bs.length) = 0 := by
      rw [Nat.shiftRight_eq_div_pow, pow_mul]
      exact Nat.div_eq_of_lt (fromBE_lt bs)
    simp only [fromBE, List.length_cons, beBytes]
    rw [shiftRight_mul_pow_add, beBytes_mul_pow_add, hlow, ih, Nat.add_zero, BitVec.ofNat_toNat,
      BitVec.setWidth_eq]

/-- `le_n(from_le(B)) = B` where `n = len(B)`. -/
theorem leBytes_fromLE (B : List Byte) : leBytes B.length (fromLE B) = B := by
  induction B with
  | nil => rfl
  | cons b bs ih =>
    have hb : b.toNat < 256 := b.isLt
    have hhead : BitVec.ofNat 8 (b.toNat + 256 * fromLE bs) = b := by
      apply BitVec.eq_of_toNat_eq
      simp only [BitVec.toNat_ofNat]
      omega
    have hrest : (b.toNat + 256 * fromLE bs) >>> 8 = fromLE bs := by
      rw [Nat.shiftRight_eq_div_pow]
      omega
    simp only [fromLE, List.length_cons, leBytes]
    rw [hhead, hrest, ih]

/-- Sixteen bytes pass through a register in big-endian order. -/
theorem beBytes_ofNat_fromBE (B : List Byte) (h : B.length = 16) :
    beBytes 16 (BitVec.ofNat 128 (fromBE B)).toNat = B := by
  have hlt : fromBE B < 2 ^ 128 := (fromBE_lt B).trans_eq (by rw [h]; norm_num)
  rw [BitVec.toNat_ofNat, Nat.mod_eq_of_lt hlt, ← h]
  exact beBytes_fromBE B

/-- Sixteen bytes pass through a register in little-endian order. -/
theorem leBytes_ofNat_fromLE (B : List Byte) (h : B.length = 16) :
    leBytes 16 (BitVec.ofNat 128 (fromLE B)).toNat = B := by
  have hlt : fromLE B < 2 ^ 128 := (fromLE_lt B).trans_eq (by rw [h]; norm_num)
  rw [BitVec.toNat_ofNat, Nat.mod_eq_of_lt hlt, ← h]
  exact leBytes_fromLE B

/-! ### The four commands inside `BUF` -/

theorem exec_ldbe (s : State) (rd : XReg) (off : Imm8) (h : off.toNat + 16 ≤ 256) :
    exec (.ldbe rd off) s = .next (writeX s rd (BitVec.ofNat 128 (fromBE (s.buf.readBytes off.toNat 16)))) :=
  (complete_next _ _ _ _).2 (.inl ((bind_ok _ _ _).2 ⟨_, (memRead_ok _ _ _ _).2 ⟨h, rfl⟩, rfl⟩))

theorem exec_ldle (s : State) (rd : XReg) (off : Imm8) (h : off.toNat + 16 ≤ 256) :
    exec (.ldle rd off) s = .next (writeX s rd (BitVec.ofNat 128 (fromLE (s.buf.readBytes off.toNat 16)))) :=
  (complete_next _ _ _ _).2 (.inl ((bind_ok _ _ _).2 ⟨_, (memRead_ok _ _ _ _).2 ⟨h, rfl⟩, rfl⟩))

theorem exec_stbe (s : State) (rs1 : XReg) (off : Imm8) (h : off.toNat + 16 ≤ 256) :
    exec (.stbe rs1 off) s =
      .next (setBuf s (s.buf.writeBytes off.toNat (beBytes 16 (readX s rs1).toNat))) :=
  (complete_next _ _ _ _).2 (.inl ((memWrite_ok _ _ _ _).2 ⟨by rwa [length_beBytes], rfl⟩))

theorem exec_stle (s : State) (rs1 : XReg) (off : Imm8) (h : off.toNat + 16 ≤ 256) :
    exec (.stle rs1 off) s =
      .next (setBuf s (s.buf.writeBytes off.toNat (leBytes 16 (readX s rs1).toNat))) :=
  (complete_next _ _ _ _).2 (.inl ((memWrite_ok _ _ _ _).2 ⟨by rwa [length_leBytes], rfl⟩))

/-! ### The load and the store together -/

/-- A run goes on from the state its first command leaves. -/
theorem execAll_cons_of_next (i : Instr) (is : List Instr) (s t : State) (h : exec i s = .next t) :
    execAll (i :: is) s = execAll is t := by
  simp only [execAll, h]

/-- In either byte order: a load that leaves `BUF` alone, then a store of the bytes `b`, puts `b` at the store's
offset. -/
theorem execAll_load_store (ld st : Instr) (s u : State) (o2 : Nat) (b : List Byte) (hw : s.buf.wf)
    (hfit : o2 + b.length ≤ 256) (hld : exec ld s = .next u) (hbuf : u.buf = s.buf)
    (hst : exec st u = .next (setBuf u (u.buf.writeBytes o2 b))) :
    ∃ t, execAll [ld, st] s = .next t ∧ t.buf.readBytes o2 b.length = b := by
  refine ⟨setBuf u (u.buf.writeBytes o2 b), ?_, ?_⟩
  · rw [execAll_cons_of_next _ _ _ _ hld, execAll_cons_of_next _ _ _ _ hst, execAll]
  · rw [setBuf_buf, hbuf]
    exact Memory.readBytes_writeBytes _ _ _ hw hfit

/-- Settles O37: the register holds the number of the bytes loaded, its bytes in the same order are those bytes
(`beBytes_ofNat_fromBE`, `leBytes_ofNat_fromLE`), and stored bytes read back. -/
theorem loadStoreRoundTrip : Obligations.LoadStoreRoundTrip := by
  intro s rd o o2 b hw ho ho2 hlen hb
  have hfit : o2.toNat + b.length ≤ 256 := by rwa [hlen]
  rw [← hlen]
  constructor
  · refine execAll_load_store _ _ s _ _ b hw hfit (exec_ldbe s rd o ho) rfl ?_
    rw [exec_stbe _ _ _ ho2, readX_writeX_same, hb, beBytes_ofNat_fromBE b hlen]
  · refine execAll_load_store _ _ s _ _ b hw hfit (exec_ldle s rd o ho) rfl ?_
    rw [exec_stle _ _ _ ho2, readX_writeX_same, hb, leBytes_ofNat_fromLE b hlen]

end Sys2Proof.Machine
end

section
/-! The 128-bit ALU without a carry (40_uint128_alu.md section 2): `ADD`, `SUB` and `MUL` as numbers. -/

namespace Sys2Proof.Machine

theorem exec_add (s : State) (rd rs1 rs2 : XReg) :
    exec (.add rd rs1 rs2) s = .next (writeX s rd (readX s rs1 + readX s rs2)) := rfl

theorem exec_sub (s : State) (rd rs1 rs2 : XReg) :
    exec (.sub rd rs1 rs2) s = .next (writeX s rd (readX s rs1 - readX s rs2)) := rfl

theorem exec_mul (s : State) (rd rs1 rs2 : XReg) :
    exec (.mul rd rs1 rs2) s = .next (writeX s rd (readX s rs1 * readX s rs2)) := rfl

/-- A command that writes one `x` register and nothing else completes, with that register holding the number
written. -/
theorem completesWith_of_exec_writeX {i : Instr} {s : State} {rd : XReg} {v : U128} {n : Nat}
    (he : exec i s = .next (writeX s rd v)) (hv : v.toNat = n) :
    CompletesWith i s [.x rd] fun t => (readX t rd).toNat = n :=
  .intro _ he (by rw [readX_writeX_same, hv]) ((OnlyChanges.refl _ s).writeX rd v (List.mem_singleton_self _))

/-- A difference of words as a number: exact when nothing is borrowed, `2^128` more when something is. -/
theorem toNat_sub_eq_ite (x y : U128) :
    (x - y).toNat = if y.toNat ≤ x.toNat then x.toNat - y.toNat else 2 ^ 128 + x.toNat - y.toNat := by
  split
  next hle => exact BitVec.toNat_sub_of_le hle
  next hlt =>
    rw [BitVec.toNat_sub_of_lt (Nat.lt_of_not_le hlt)]
    omega

/-- Settles O25: each command writes `rd` alone, and the number it writes is the true result modulo `2^128`. -/
theorem addSubMulWrap : Obligations.AddSubMulWrap := by
  intro s rd rs1 rs2
  exact ⟨completesWith_of_exec_writeX (exec_add s rd rs1 rs2) (BitVec.toNat_add _ _),
    completesWith_of_exec_writeX (exec_sub s rd rs1 rs2) (toNat_sub_eq_ite _ _),
    completesWith_of_exec_writeX (exec_mul s rd rs1 rs2) (BitVec.toNat_mul _ _)⟩

end Sys2Proof.Machine
end

section
/-! The two byte orders of a 128-bit value (41_endian.md R186): reading back the bytes of a number gives what of it
fits in them, and the bytes in one order are those in the other reversed. -/

namespace Sys2Proof.Machine

/-- `from_be(be_n(v))` is `v` modulo `2^(8*n)`: the first byte is the top digit in base 256. -/
theorem fromBE_beBytes (n v : Nat) : fromBE (beBytes n v) = v % 256 ^ n := by
  induction n with
  | zero => simp [beBytes, fromBE, Nat.mod_one]
  | succ n ih =>
    have htop : (BitVec.ofNat 8 (v >>> (8 * n))).toNat = v / 256 ^ n % 256 := by
      simp only [BitVec.toNat_ofNat, Nat.shiftRight_eq_div_pow, pow_mul, Nat.reducePow]
    rw [beBytes, fromBE, htop, length_beBytes, ih, Nat.mod_pow_succ]
    ring

/-- `from_le(le_n(v))` is `v` modulo `2^(8*n)`: the first byte is the bottom digit in base 256. -/
theorem fromLE_leBytes (n v : Nat) : fromLE (leBytes n v) = v % 256 ^ n := by
  induction n generalizing v with
  | zero => simp [leBytes, fromLE, Nat.mod_one]
  | succ n ih =>
    rw [leBytes, fromLE, ih, BitVec.toNat_ofNat, Nat.shiftRight_eq_div_pow, pow_succ' 256, Nat.mod_mul]

/-- `le_n(v)` is `be_n(v)` reversed: byte `i` of the one and byte `n - 1 - i` of the other are both
`(v >> (8*i)) & 0xff`. -/
theorem leBytes_eq_reverse_beBytes (n v : Nat) : leBytes n v = (beBytes n v).reverse := by
  apply List.ext_getElem
  · simp
  · intro i hi _
    rw [length_leBytes] at hi
    have hpos : n - 1 - (n - 1 - i) = i := by omega
    rw [getElem_leBytes, List.getElem_reverse, getElem_beBytes, length_beBytes, hpos]

/-- A register's value is below `256^16`, so all of it fits in sixteen bytes. -/
theorem ofNat_toNat_mod_pow (v : U128) : BitVec.ofNat 128 (v.toNat % 256 ^ 16) = v := by
  have hlt : v.toNat < 256 ^ 16 := v.isLt
  rw [Nat.mod_eq_of_lt hlt, BitVec.ofNat_toNat, BitVec.setWidth_eq]

/-- Settles O36: the laws for byte sequences of every length, at the sixteen bytes that hold a 128-bit value. -/
theorem endianLaws : Obligations.EndianLaws := by
  refine ⟨fun v => ?_, fun b hb => ?_, fun v => ?_, fun b hb => ?_, fun v => leBytes_eq_reverse_beBytes 16 v.toNat⟩
  · rw [fromBE_beBytes, ofNat_toNat_mod_pow]
  · rw [← hb, beBytes_fromBE]
  · rw [fromLE_leBytes, ofNat_toNat_mod_pow]
  · rw [← hb, leBytes_fromLE]

end Sys2Proof.Machine
end

section
/-! The children of a prefix (44_subnets.md R294). With `W = 8*len(A)`, a masked prefix `(A, k)` contains the addresses
whose number, cut to its top `k` of `W` bits, is the one of `A` (`containsIP_iff_div`); child `i` appends the `l` bits
of `i` to it (`childAddr_div`). The partition is then division with remainder by `2^l`. -/

namespace Sys2Proof.Machine

/-! ### Containment as a quotient -/

theorem IPAddr.family_len (v : IPAddr) : v.family.len = v.len := rfl

theorem IPAddr.eq_iff_num (u v : IPAddr) (h : u.len = v.len) : u = v ↔ u.num.toNat = v.num.toNat := by
  refine ⟨fun e => e ▸ rfl, fun e => ?_⟩
  rw [← ip_num u, ← ip_num v, (IPAddr.family_eq_iff u v).2 h, BitVec.eq_of_toNat_eq e]

theorem toNat_topMask (W k : Nat) (hk : k ≤ W) (hW : W ≤ 128) :
    (topMask W k).toNat = (2 ^ k - 1) * 2 ^ (W - k) := by
  have hlt : (2 ^ k - 1) * 2 ^ (W - k) < 2 ^ 128 :=
    calc (2 ^ k - 1) * 2 ^ (W - k) < 2 ^ k * 2 ^ (W - k) :=
          Nat.mul_lt_mul_of_pos_right (Nat.sub_lt (Nat.two_pow_pos k) Nat.one_pos) (Nat.two_pow_pos _)
      _ = 2 ^ W := by rw [← pow_add, Nat.add_sub_cancel' hk]
      _ ≤ 2 ^ 128 := Nat.pow_le_pow_right Nat.two_pos hW
  unfold topMask
  split
  next h0 => simp [h0]
  next => rw [BitVec.toNat_ofNat, Nat.mod_eq_of_lt hlt]

/-- Masking to the top `k` of `W` bits keeps those bits. -/
theorem and_topMask_div (x : U128) (W k : Nat) (hk : k ≤ W) (hW : W ≤ 128) (hx : x.toNat < 2 ^ W) :
    (x &&& topMask W k).toNat / 2 ^ (W - k) = x.toNat / 2 ^ (W - k) := by
  have htop : x.toNat / 2 ^ (W - k) < 2 ^ k :=
    Nat.div_lt_of_lt_mul (by rwa [← pow_add, Nat.sub_add_cancel hk])
  rw [BitVec.toNat_and, toNat_topMask W k hk hW, Nat.and_div_two_pow, Nat.mul_div_cancel _ (Nat.two_pow_pos _),
    Nat.and_two_pow_sub_one_eq_mod, Nat.mod_eq_of_lt htop]

/-- A masked prefix contains an address of its length exactly when the two agree in their top `k` bits
(43_prefix.md R260). -/
theorem containsIP_iff_div (A v : IPAddr) (k : Fin 129) (hA : IPPfx.valid { addr := .addr A, bits := k })
    (hv : v.len = A.len) :
    containsIP A k.val v = .ok true ↔
      v.num.toNat / 2 ^ (8 * A.len - k.val) = A.num.toNat / 2 ^ (8 * A.len - k.val) := by
  obtain ⟨hk, hlow⟩ := hA
  have hdiv := and_topMask_div v.num (8 * A.len) k.val hk A.len_le (hv ▸ v.num_lt)
  have hmod := and_topMask_mod v.num (8 * A.len) k.val hk A.len_le
  have hlt : (v.num &&& topMask (8 * A.len) k.val).toNat < 2 ^ (8 * A.len) := by
    rw [BitVec.toNat_and]
    exact Nat.and_le_left.trans_lt (hv ▸ v.num_lt)
  have hlen : (ip v.family (v.num &&& topMask (8 * A.len) k.val)).len = A.len := (ip_len _ _).trans hv
  have hnum : (ip v.family (v.num &&& topMask (8 * A.len) k.val)).num.toNat =
      (v.num &&& topMask (8 * A.len) k.val).toNat := by
    rw [num_ip, IPAddr.family_len, hv, Nat.mod_eq_of_lt hlt]
  rw [containsIP_ok, hv, eq_comm (a := true), decide_eq_true_iff, IPAddr.eq_iff_num _ _ hlen, hnum, ← hdiv]
  refine ⟨fun ⟨_, e⟩ => by rw [e], fun e => ⟨hk, ?_⟩⟩
  rw [← Nat.div_add_mod (v.num &&& _).toNat, e, hmod, ← hlow, Nat.div_add_mod]

/-! ### The children -/

/-- The address of `child((A, k), l, i)` (44_subnets.md R291). -/
def childAddr (A : IPAddr) (k l i : Nat) : IPAddr :=
  ip A.family (A.num ||| if i = 0 then 0 else BitVec.ofNat 128 (i * 2 ^ (8 * A.len - k - l)))

theorem child_eq (A : IPAddr) (k l i : Nat) :
    child A k l i = { addr := .addr (childAddr A k l i), bits := Fin.ofNat 129 (k + l) } := rfl

@[simp] theorem childAddr_len (A : IPAddr) (k l i : Nat) : (childAddr A k l i).len = A.len := ip_len _ _

/-- The length of a child fits the type of prefix lengths. -/
theorem childBits_val (A : IPAddr) (k l : Nat) (h : k + l ≤ 8 * A.len) : (Fin.ofNat 129 (k + l)).val = k + l :=
  Nat.mod_eq_of_lt (by have := A.len_le; omega)

/-- The bits after the first `k` of `W`: `l` of them, then the rest. -/
theorem two_pow_sub_split (W k l : Nat) (h : k + l ≤ W) : 2 ^ (W - k) = 2 ^ (W - k - l) * 2 ^ l := by
  rw [← pow_add, Nat.sub_add_cancel (Nat.le_sub_of_add_le' h)]

/-- The top `k` of `W` bits are what is left of the top `k + l` without the last `l`. -/
theorem div_two_pow_sub_split (n W k l : Nat) (h : k + l ≤ W) :
    n / 2 ^ (W - k) = n / 2 ^ (W - k - l) / 2 ^ l := by
  rw [two_pow_sub_split W k l h, Nat.div_div_eq_div_mul]

/-- An index below `2^l`, put after the first `k` of `W` bits, stays below them. -/
theorem mul_two_pow_lt (W k l i : Nat) (h : k + l ≤ W) (hi : i < 2 ^ l) :
    i * 2 ^ (W - k - l) < 2 ^ (W - k) := by
  rw [two_pow_sub_split W k l h, Nat.mul_comm]
  exact Nat.mul_lt_mul_of_pos_left hi (Nat.two_pow_pos _)

section
variable {A : IPAddr} {k : Fin 129} {l i : Nat} (hA : IPPfx.valid { addr := .addr A, bits := k })
  (h : k.val + l ≤ 8 * A.len) (hi : i < 2 ^ l)
include hA h hi

/-- The `l` bits of `i` fall where the masked address is zero, so nothing carries: the `or` of R291 is a sum. -/
theorem childAddr_num :
    (childAddr A k.val l i).num.toNat = A.num.toNat + i * 2 ^ (8 * A.len - k.val - l) := by
  obtain ⟨_, hlow⟩ := hA
  obtain ⟨a, ha⟩ := Nat.dvd_of_mod_eq_zero hlow
  have hfield := mul_two_pow_lt (8 * A.len) k.val l i h hi
  have hfieldW : i * 2 ^ (8 * A.len - k.val - l) < 2 ^ (8 * A.len) :=
    hfield.trans_le (Nat.pow_le_pow_right Nat.two_pos (Nat.sub_le _ _))
  have hfield128 : i * 2 ^ (8 * A.len - k.val - l) < 2 ^ 128 :=
    hfieldW.trans_le (Nat.pow_le_pow_right Nat.two_pos A.len_le)
  have hshift : (if i = 0 then (0 : U128) else BitVec.ofNat 128 (i * 2 ^ (8 * A.len - k.val - l))).toNat =
      i * 2 ^ (8 * A.len - k.val - l) := by
    split
    next h0 => simp [h0]
    next => rw [BitVec.toNat_ofNat, Nat.mod_eq_of_lt hfield128]
  rw [childAddr, num_ip, BitVec.toNat_or, hshift, IPAddr.family_len,
    Nat.mod_eq_of_lt (Nat.or_lt_two_pow A.num_lt hfieldW), ha, Nat.two_pow_add_eq_or_of_lt hfield]

/-- The top `k + l` bits of child `i` are the top `k` of the prefix followed by the `l` of `i`. -/
theorem childAddr_div :
    (childAddr A k.val l i).num.toNat / 2 ^ (8 * A.len - k.val - l) =
      2 ^ l * (A.num.toNat / 2 ^ (8 * A.len - k.val)) + i := by
  rw [childAddr_num hA h hi]
  obtain ⟨_, hlow⟩ := hA
  obtain ⟨a, ha⟩ := Nat.dvd_of_mod_eq_zero hlow
  rw [ha, Nat.mul_div_cancel_left a (Nat.two_pow_pos _), two_pow_sub_split _ _ _ h, Nat.mul_assoc,
    Nat.add_mul_div_right _ _ (Nat.two_pow_pos _), Nat.mul_div_cancel_left _ (Nat.two_pow_pos _)]

/-- An address of the prefix's length is in child `i` exactly when it is in the prefix and has `i` in the `l` bits
after the first `k`: its top `k + l` bits divided by `2^l`, quotient and remainder. -/
theorem containsIP_childAddr_iff (v : IPAddr) (hv : v.len = A.len) :
    containsIP (childAddr A k.val l i) (k.val + l) v = .ok true ↔
      containsIP A k.val v = .ok true ∧ v.num.toNat / 2 ^ (8 * A.len - k.val - l) % 2 ^ l = i := by
  have hchild := containsIP_iff_div (childAddr A k.val l i) v (Fin.ofNat 129 (k.val + l))
    (child_valid A k l i hA h) (hv.trans (childAddr_len ..).symm)
  rw [childBits_val A _ _ h, childAddr_len, ← Nat.sub_sub, childAddr_div hA h hi] at hchild
  rw [hchild, containsIP_iff_div A v k hA hv, div_two_pow_sub_split v.num.toNat _ _ _ h,
    Nat.div_mod_unique (Nat.two_pow_pos l), and_iff_left hi, Nat.add_comm i, eq_comm]

/-- A child's own address lies in the prefix: the two agree in their top `k` bits. -/
theorem containsIP_childAddr : containsIP A k.val (childAddr A k.val l i) = .ok true := by
  rw [containsIP_iff_div A _ k hA (childAddr_len ..), div_two_pow_sub_split _ _ _ _ h,
    childAddr_div hA h hi, Nat.mul_add_div (Nat.two_pow_pos l), Nat.div_eq_of_lt hi, Nat.add_zero]

end

/-- Settles O55: the number of child `i` is `childAddr_num`, and `containsIP_childAddr_iff` gives the rest: a remainder
is one number, so the children are disjoint, and it is below `2^l`, so every address of the prefix has its child. -/
theorem subnetsPartition : Obligations.SubnetsPartition := by
  intro A k l hA _ h
  have hmem : ∀ i < 2 ^ l, ∀ v : IPAddr, v.len = A.len →
      (containsIP (childAddr A k.val l i) (k.val + l) v = .ok true ↔
        containsIP A k.val v = .ok true ∧ v.num.toNat / 2 ^ (8 * A.len - k.val - l) % 2 ^ l = i) :=
    fun i hi => containsIP_childAddr_iff hA h hi
  refine ⟨childAddr A k.val l, fun i hi => ?each, fun i j hij hj => ?ascend, fun i j hi hj hne v hv => ?disjoint,
    fun v hv => ?union⟩
  case each =>
    exact ⟨child_eq .., childBits_val A _ _ h, childAddr_len .., childAddr_num hA h hi,
      containsIP_childAddr hA h hi, hmem i hi⟩
  case ascend =>
    rw [childAddr_num hA h (hij.trans hj), childAddr_num hA h hj]
    exact Nat.add_lt_add_left (Nat.mul_lt_mul_of_pos_right hij (Nat.two_pow_pos _)) _
  case disjoint =>
    rw [hmem i hi v hv, hmem j hj v hv]
    rintro ⟨⟨_, hvi⟩, _, hvj⟩
    exact hne (hvi.symm.trans hvj)
  case union =>
    constructor
    · intro hin
      have hlt := Nat.mod_lt (v.num.toNat / 2 ^ (8 * A.len - k.val - l)) (Nat.two_pow_pos l)
      exact ⟨_, hlt, (hmem _ hlt v hv).2 ⟨hin, rfl⟩⟩
    · rintro ⟨i, hi, hin⟩
      exact ((hmem i hi v hv).1 hin).1

end Sys2Proof.Machine
end

section
/-! The record encoders (45_addrrec_codec.md R313, R314, R316, R319). `ENC.LEG` and `ENC.CUR` differ in the header
alone, so each outcome is said once, for an encoder of any header. -/

namespace Sys2Proof.Machine

/-- `RLEN` holds every length that fits `BUF`. -/
theorem toNat_setRLen_rlen (s : State) {n : Nat} (h : n ≤ 256) : (setRLen s n).rlen.toNat = n := by
  rw [setRLen_rlen, BitVec.toNat_ofNat]
  omega

/-- The header of a current record in the words of R317: a version is 4 for length 4 and 6 for length 16. -/
theorem recordHeader_eq (ea gw : IPAddr) :
    recordHeader ea.family gw.family =
      [if ea.len = 4 then 4 else 6, ea.len, if gw.len = 4 then 4 else 6, gw.len].map (BitVec.ofNat 8) := by
  cases ea <;> cases gw <;> rfl

theorem exec_encLeg (rd : XReg) (rs1 rs2 rs3 : AReg) (off : Imm8) (s : State) :
    exec (.encLeg rd rs1 rs2 rs3 off) s =
      complete (.encLeg rd rs1 rs2 rs3 off) s (encodeRecord (fun _ _ => []) rd rs1 rs2 rs3 off s) := rfl

theorem exec_encCur (rd : XReg) (rs1 rs2 rs3 : AReg) (off : Imm8) (s : State) :
    exec (.encCur rd rs1 rs2 rs3 off) s =
      complete (.encCur rd rs1 rs2 rs3 off) s (encodeRecord recordHeader rd rs1 rs2 rs3 off s) := rfl

section Encoder

variable {i : Instr} {header : Family → Family → List Byte} {rd : XReg} {rs1 rs2 rs3 : AReg} {off : Imm8} {s : State}
  {ea ip gw : IPAddr}
  (he : exec i s = complete i s (encodeRecord header rd rs1 rs2 rs3 off s))
  (hea : readA s rs1 = .addr ea) (hip : readA s rs2 = .addr ip) (hgw : readA s rs3 = .addr gw)
include he hea hip hgw

/-- Addresses `EA` and `IP` of different length raise `RecFamily`, whatever the offset. -/
theorem encoder_raises_recFamily (hne : ea.len ≠ ip.len) : Raises i s .recFamily :=
  raises_of_error i s _ _ he <| (encodeRecord_error ..).2 <|
    .inr ⟨ea, ip, gw, hea, hip, hgw, .inl ⟨rfl, hne⟩⟩

/-- A record `B` that passes the end of `BUF` raises `BufRange`. -/
theorem encoder_raises_bufRange (hlen : ea.len = ip.len) {B : List Byte} {n : Nat}
    (hB : header ea.family gw.family ++ recordBody ea ip gw (readX s rd) = B) (hn : B.length = n)
    (hover : 256 < off.toNat + n) : Raises i s .bufRange := by
  subst hB hn
  exact raises_of_error i s _ _ he <| (encodeRecord_error ..).2 <|
    .inr ⟨ea, ip, gw, hea, hip, hgw, .inr ⟨rfl, hlen, hover⟩⟩

/-- A record `B` that fits is written whole at the offset, `RLEN` takes its length, and nothing else changes. -/
theorem encoder_completes (hw : s.buf.wf) (hlen : ea.len = ip.len) {B : List Byte} {n : Nat}
    (hB : header ea.family gw.family ++ recordBody ea ip gw (readX s rd) = B) (hn : B.length = n)
    (hfit : off.toNat + n ≤ 256) :
    CompletesWith i s (.rlen :: bytesAt off.toNat n)
      fun t => t.rlen.toNat = n ∧ t.buf.readBytes off.toNat n = B := by
  subst hB hn
  have hok := (encodeRecord_ok header rd rs1 rs2 rs3 off s _).2 ⟨ea, ip, gw, hea, hip, hgw, hlen, hfit, rfl⟩
  refine .intro _ (by rw [he, hok, complete_ok]) ⟨?rlen, ?bytes⟩ ?frame
  case rlen => exact toNat_setRLen_rlen _ (Nat.le_of_add_left_le hfit)
  case bytes => exact Memory.readBytes_writeBytes _ _ _ hw hfit
  case frame =>
    exact ((OnlyChanges.refl _ s).setBuf_writeBytes _ _ hw hfit fun j hj =>
      List.mem_cons_of_mem _ (buf_mem_bytesAt _ _ j hj)).setRLen _ List.mem_cons_self

end Encoder

/-- Settles O57: both encoders have the three outcomes above, `ENC.LEG` with no header and `ENC.CUR` with
the four bytes of `recordHeader_eq`. -/
theorem encoders : Obligations.Encoders := by
  intro s rd rs1 rs2 rs3 off ea ip gw hw hea hip hgw body version header L
  have hleg := exec_encLeg rd rs1 rs2 rs3 off s
  have hcur := exec_encCur rd rs1 rs2 rs3 off s
  have hbody : recordBody ea ip gw (readX s rd) = body := rfl
  have hheader : recordHeader ea.family gw.family ++ recordBody ea ip gw (readX s rd) = header ++ body :=
    congrArg (· ++ body) (recordHeader_eq ea gw)
  have hL (hlen : ea.len = ip.len) : body.length = L := by
    rw [← hbody, recordBody_length, ← hlen, ← Nat.two_mul]
  have hL4 (hlen : ea.len = ip.len) : (header ++ body).length = 4 + L := by
    rw [List.length_append, hL hlen]
    rfl
  exact ⟨fun hne => ⟨encoder_raises_recFamily hleg hea hip hgw hne, encoder_raises_recFamily hcur hea hip hgw hne⟩,
    fun hlen => encoder_completes hleg hea hip hgw hw hlen hbody (hL hlen),
    fun hlen => encoder_raises_bufRange hleg hea hip hgw hlen hbody (hL hlen),
    fun hlen => encoder_completes hcur hea hip hgw hw hlen hheader (hL4 hlen),
    fun hlen => encoder_raises_bufRange hcur hea hip hgw hlen hheader (hL4 hlen)⟩

end Sys2Proof.Machine
end

section
/-! The record check (45_addrrec_codec.md R317, R318, R320): the model's `checkRecord` answers the families of exactly
the windows of `RecordChecks`, and `CHK.CUR` reports that answer. -/

namespace Sys2Proof.Machine

/-- A pair is consistent exactly when the model finds the family of that length for it (R317). -/
theorem consistentPair_iff (version length : Byte) (n : Nat) :
    ConsistentPair version length n ↔ ∃ f, consistent version length = some f ∧ f.len = n := by
  constructor
  · rintro (⟨rfl, rfl, rfl⟩ | ⟨rfl, rfl, rfl⟩)
    · exact ⟨.four, rfl, rfl⟩
    · exact ⟨.sixteen, rfl, rfl⟩
  · rintro ⟨f, hf, rfl⟩
    unfold consistent at hf
    split at hf
    next h4 =>
      obtain ⟨rfl, rfl⟩ := h4
      cases hf
      exact .inl ⟨rfl, rfl, rfl⟩
    next =>
      split at hf
      next h6 =>
        obtain ⟨rfl, rfl⟩ := h6
        cases hf
        exact .inr ⟨rfl, rfl, rfl⟩
      next => cases hf

/-- What the three tests of `check(W)` ask of a window it accepts (R318). -/
theorem checkRecord_eq_some (W : List Byte) (ea gw : Family) :
    checkRecord W = some (ea, gw) ↔
      32 ≤ W.length ∧ consistent (W.getD 0 0) (W.getD 1 0) = some ea ∧
        consistent (W.getD 2 0) (W.getD 3 0) = some gw ∧ 4 + 2 * ea.len + gw.len + 16 ≤ W.length := by
  unfold checkRecord
  split
  next hshort => simp [Nat.not_le.2 hshort]
  next hlong =>
    have hmin : 32 ≤ W.length := Nat.not_lt.1 hlong
    cases consistent (W.getD 0 0) (W.getD 1 0) with
    | none => simp
    | some n =>
      cases consistent (W.getD 2 0) (W.getD 3 0) with
      | none => simp
      | some m =>
        simp only [Option.ite_none_right_eq_some, Option.some.injEq, Prod.mk.injEq, hmin, true_and]
        constructor
        · rintro ⟨hfit, rfl, rfl⟩
          exact ⟨rfl, rfl, hfit⟩
        · rintro ⟨rfl, rfl, hfit⟩
          exact ⟨hfit, rfl, rfl⟩

/-- The windows that check, with their lengths, are those the model accepts, with their families. -/
theorem recordChecks_iff (W : List Byte) (n m : Nat) :
    RecordChecks W n m ↔ ∃ ea gw, checkRecord W = some (ea, gw) ∧ ea.len = n ∧ gw.len = m := by
  simp only [RecordChecks, consistentPair_iff, checkRecord_eq_some]
  constructor
  · rintro ⟨hmin, ⟨ea, hea, rfl⟩, ⟨gw, hgw, rfl⟩, hfit⟩
    exact ⟨ea, gw, ⟨hmin, hea, hgw, hfit⟩, rfl, rfl⟩
  · rintro ⟨ea, gw, ⟨hmin, hea, hgw, hfit⟩, rfl, rfl⟩
    exact ⟨hmin, ⟨ea, hea, rfl⟩, ⟨gw, hgw, rfl⟩, hfit⟩

theorem checkRecord_eq_none (W : List Byte) (h : ∀ n m, ¬ RecordChecks W n m) : checkRecord W = none :=
  Option.eq_none_iff_forall_ne_some.2 fun (ea, gw) hc => h _ _ ((recordChecks_iff ..).2 ⟨ea, gw, hc, rfl, rfl⟩)

/-! ### `CHK.CUR` -/

theorem raises_bufRange_chkCur (s : State) (off : Imm8) (h : 256 < off.toNat + s.bufLen.toNat) :
    Raises (.chkCur off) s .bufRange :=
  raises_of_error _ s _ _ rfl <| (bind_error ..).2 <| .inl <| (window_error ..).2 ⟨rfl, h⟩

theorem exec_chkCur_some (s : State) (off : Imm8) {ea gw : Family} (h : off.toNat + s.bufLen.toNat ≤ 256)
    (hc : checkRecord (s.buf.readBytes off.toNat s.bufLen.toNat) = some (ea, gw)) :
    exec (.chkCur off) s = .next (setRLen (setOK s true) (4 + 2 * ea.len + gw.len + 16)) :=
  (complete_next ..).2 <| .inl <| (bind_ok ..).2 ⟨_, (window_ok ..).2 ⟨h, rfl⟩, by rw [hc]; rfl⟩

theorem exec_chkCur_none (s : State) (off : Imm8) (h : off.toNat + s.bufLen.toNat ≤ 256)
    (hc : checkRecord (s.buf.readBytes off.toNat s.bufLen.toNat) = none) :
    exec (.chkCur off) s = .next (notOk s) :=
  (complete_next ..).2 <| .inl <| (bind_ok ..).2 ⟨_, (window_ok ..).2 ⟨h, rfl⟩, by rw [hc]; rfl⟩

/-- Setting `OK` and `RLEN` is all a check does. -/
theorem onlyChanges_setOK_setRLen (s : State) (b : Bool) (n : Nat) :
    OnlyChanges [.ok, .rlen] s (setRLen (setOK s b) n) :=
  ((OnlyChanges.refl _ s).setOK b (by simp)).setRLen n (by simp)

/-- Settles O58: `CHK.CUR` reports the answer of `checkRecord` (`exec_chkCur_some`, `exec_chkCur_none`), which accepts
the windows of `RecordChecks`. The record lies within its window, so its length fits `RLEN`. -/
theorem checkOutcome : Obligations.CheckOutcome := by
  intro s off W
  refine ⟨raises_bufRange_chkCur s off, fun hin => ⟨fun n m hW => ?checks, fun hW => ?fails⟩⟩
  case checks =>
    obtain ⟨ea, gw, hc, rfl, rfl⟩ := (recordChecks_iff W n m).1 hW
    have hlength : W.length = s.bufLen.toNat := Memory.length_readBytes ..
    obtain ⟨_, _, _, hfit⟩ := hW
    exact .intro _ (exec_chkCur_some s off hin hc) ⟨rfl, toNat_setRLen_rlen _ (by omega)⟩
      (onlyChanges_setOK_setRLen s _ _)
  case fails =>
    exact .intro _ (exec_chkCur_none s off hin (checkRecord_eq_none W hW)) ⟨rfl, rfl⟩
      (onlyChanges_setOK_setRLen s _ _)

end Sys2Proof.Machine
end

section
/-! The word of a decoded command (30_encoding.md R91, R92, R97): cutting a word into its fields and putting them
together gives the word, and a row of the opcode table that accepts its fields leaves none of them out. -/

namespace Sys2Proof

/-- The six fields put together are the word they were cut from (R91). -/
theorem wordOf_fieldsOf (w : CmdWord) : wordOf (fieldsOf w) = w := by
  apply BitVec.eq_of_getLsbD_eq
  simp only [wordOf, fieldsOf, BitVec.getLsbD_append, BitVec.getLsbD_extractLsb']
  grind

/-- Format I cuts its immediate into the fields it was put together from (R92). -/
theorem formatI_imm16 (f : Fields) : formatI f.op f.rd f.rs1 f.imm16 = f := by
  have hrs2 : f.imm16.extractLsb' 12 4 = f.rs2 := by
    apply BitVec.eq_of_getLsbD_eq
    simp only [Fields.imm16, BitVec.getLsbD_append, BitVec.getLsbD_extractLsb']
    grind
  have hrs3 : f.imm16.extractLsb' 8 4 = f.rs3 := by
    apply BitVec.eq_of_getLsbD_eq
    simp only [Fields.imm16, BitVec.getLsbD_append, BitVec.getLsbD_extractLsb']
    grind
  have himm8 : f.imm16.extractLsb' 0 8 = f.imm8 := BitVec.extractLsb'_append_eq_right
  rw [formatI, hrs2, hrs3, himm8]

theorem accept_eq_ok {reservedZero immLegal : Bool} {i j : Instr} :
    accept reservedZero immLegal i = .ok j ↔ reservedZero = true ∧ immLegal = true ∧ i = j := by
  cases reservedZero <;> cases immLegal <;> simp [accept]

/-- The fields a command is read from are the fields it is written to. In each row of R97 the fields its command does
not hold are the opcode, which the row fixes, and the reserved ones, which are zero. -/
theorem encodeFields_of_decodeFields {f : Fields} {i : Instr} (h : decodeFields f = .ok i) : encodeFields i = f := by
  have himm := formatI_imm16 f
  unfold decodeFields at h
  split at h
  case h_82 => cases h
  all_goals
    obtain ⟨hreserved, -, rfl⟩ := accept_eq_ok.1 h
    simp only [Bool.and_eq_true, beq_iff_eq] at hreserved
    cases f
    simp_all [encodeFields]

/-- A word that decodes is the word of its command (30_encoding.md R98). -/
theorem encode_of_decode {w : CmdWord} {i : Instr} (h : decode w = .ok i) : encode i = w := by
  rw [encode, encodeFields_of_decodeFields h, wordOf_fieldsOf]

end Sys2Proof
end

section
/-! Fault entry (60_exceptions.md R373, R380). Every command either leaves the fault registers as they are or is fault
entry from the state it found; what it checks before it writes decides which. -/

namespace Sys2Proof.Machine

/-! ### The fault registers through a sequence of checks -/

/-- `FAULT`, `FCAUSE` and `FCMD` are the same in both states. -/
def SameFaultRegs (s t : State) : Prop := t.fault = s.fault ∧ t.fcause = s.fcause ∧ t.fcmd = s.fcmd

/-- A command that passes its checks leaves the fault registers of `s`; one that fails them answers a cause. -/
def KeepsFaultRegs (s : State) (r : Except Cause State) : Prop := ∀ t, r = .ok t → SameFaultRegs s t

section Checks

variable {s : State}

theorem KeepsFaultRegs.ok {t : State} (h : SameFaultRegs s t) : KeepsFaultRegs s (.ok t) := by
  rintro _ ⟨⟩
  exact h

theorem KeepsFaultRegs.error (c : Cause) : KeepsFaultRegs s (.error c) := by
  rintro _ ⟨⟩

theorem KeepsFaultRegs.bind {α : Type} {x : Except Cause α} {f : α → Except Cause State}
    (h : ∀ a, KeepsFaultRegs s (f a)) : KeepsFaultRegs s (x >>= f) := by
  intro t ht
  obtain ⟨a, -, ha⟩ := (bind_ok x f t).1 ht
  exact h a t ha

theorem KeepsFaultRegs.ite {p : Prop} [Decidable p] {x y : Except Cause State} (hx : KeepsFaultRegs s x)
    (hy : KeepsFaultRegs s y) : KeepsFaultRegs s (if p then x else y) := by
  split
  · exact hx
  · exact hy

theorem KeepsFaultRegs.memWrite (i : Nat) (B : List Byte) : KeepsFaultRegs s (Machine.memWrite s i B) := by
  intro t ht
  obtain ⟨-, rfl⟩ := (memWrite_ok ..).1 ht
  exact ⟨rfl, rfl, rfl⟩

theorem KeepsFaultRegs.encodeRecord (header : Family → Family → List Byte) (rd : XReg) (rs1 rs2 rs3 : AReg)
    (off : Imm8) : KeepsFaultRegs s (Machine.encodeRecord header rd rs1 rs2 rs3 off s) := by
  intro t ht
  obtain ⟨ea, ip, gw, -, -, -, -, -, rfl⟩ := (encodeRecord_ok ..).1 ht
  exact ⟨rfl, rfl, rfl⟩

end Checks

/-! ### What a command does to the fault registers -/

/-- A next state has the fault registers of `s`, or is fault entry from `s` with the word of the command. -/
def KeepsOrEntersFault (i : Instr) (s : State) (r : Result) : Prop :=
  ∀ t, r = .next t → SameFaultRegs s t ∨ ∃ c, t = enterFault s c (encode i)

theorem KeepsOrEntersFault.next {i : Instr} {s t : State} (h : SameFaultRegs s t) :
    KeepsOrEntersFault i s (.next t) := by
  rintro _ ⟨⟩
  exact .inl h

theorem KeepsOrEntersFault.complete {i : Instr} {s : State} {r : Except Cause State} (h : KeepsFaultRegs s r) :
    KeepsOrEntersFault i s (complete i s r) := by
  intro t ht
  rcases (complete_next i s t r).1 ht with hok | ⟨c, -, rfl⟩
  · exact .inl (h t hok)
  · exact .inr ⟨c, rfl⟩

/-- `SUBNEXT` leaves the fault registers alone on every path (44_subnets.md R293). -/
theorem sameFaultRegs_of_execSubnext {s t : State} {rd : PReg} (h : execSubnext rd s = .next t) :
    SameFaultRegs s t := by
  unfold execSubnext at h
  split at h
  next => cases h; exact ⟨rfl, rfl, rfl⟩
  next =>
    split at h
    next => cases h; exact ⟨rfl, rfl, rfl⟩
    next =>
      split at h
      next => cases h; exact ⟨rfl, rfl, rfl⟩
      next => cases h

/-- No command writes a fault register but by fault entry. The commands are taken by their shape: first those that write
and check nothing, then those with one, two or three checks before the write, then those with a choice, those that store
to `BUF`, and `SUBNEXT`. -/
theorem exec_keepsOrEntersFault (i : Instr) (s : State) : KeepsOrEntersFault i s (exec i s) := by
  cases i with
  | nop | li | mov | clc | stc | add | addc | sub | subb | mul | and | or | xor | andn | not | cmp | clz | ctz | popcnt
  | bitlen | bswap | afromu32 | afromu128 | as4in6 | un4in6 | anum4 | anum16 | azero4 | azero16 | amov | rpref
  | rpbits | rpcont | rpcontl => exact .next ⟨rfl, rfl, rfl⟩
  | csrr | lshi | rshi | lsh | rsh | bit | trunc | ldbe | ldle | ald4 | ald16 | atou128 | atou128c | is4 | is6 | is4in6
  | aor | aand | axor | anot | aadd | abits4 | abits16 | ippaddr | ippbits =>
    exact .complete (.bind fun _ => .ok ⟨rfl, rfl, rfl⟩)
  | atou32 | acmp | ippfx | ipcontl | elen => exact .complete (.bind fun _ => .bind fun _ => .ok ⟨rfl, rfl, rfl⟩)
  | ipcont | elenof => exact .complete (.bind fun _ => .bind fun _ => .bind fun _ => .ok ⟨rfl, rfl, rfl⟩)
  | csrwi => exact .complete (.ite (.ite (.error _) (.ok ⟨rfl, rfl, rfl⟩)) (.ite (.ok ⟨rfl, rfl, rfl⟩) (.error _)))
  | rpfx => exact .complete (.ite (.error _) (.ok ⟨rfl, rfl, rfl⟩))
  | abyte => exact .complete (.bind fun _ => .ite (.error _) (.ok ⟨rfl, rfl, rfl⟩))
  | cvt | subinit => exact .complete (.bind fun _ => .ite (.ok ⟨rfl, rfl, rfl⟩) (.ok ⟨rfl, rfl, rfl⟩))
  | decLeg =>
    exact .complete (.bind fun _ => .bind fun _ => .ite (.ok ⟨rfl, rfl, rfl⟩) (.ok ⟨rfl, rfl, rfl⟩))
  | chkCur | decCur =>
    refine .complete (.bind fun W => ?_)
    cases checkRecord W with
    | none => exact .ok ⟨rfl, rfl, rfl⟩
    | some families => exact .ok ⟨rfl, rfl, rfl⟩
  | stbe | stle => exact .complete (.memWrite _ _)
  | ast4 | ast16 => exact .complete (.bind fun _ => .bind fun _ => .memWrite _ _)
  | encLeg | encCur => exact .complete (.encodeRecord _ _ _ _ _ _)
  | subnext => exact fun _ ht => .inl (sameFaultRegs_of_execSubnext ht)

/-! ### A presented command that faults -/

theorem step_of_command {s : State} {w : CmdWord} {rest : List HostAction} (h : s.pending = .command w :: rest) :
    step s = issue w (taken s rest .completed) := by
  rw [step, serve, h]

/-- Where a command word takes the running unit into the fault state, it is fault entry with that word. -/
theorem eq_enterFault_of_issue {w : CmdWord} {s t : State} (hs : s.fault = false) (h : issue w s = .next t)
    (ht : t.fault = true) : ∃ c, t = enterFault s c w := by
  unfold issue at h
  rw [hs, if_neg Bool.false_ne_true] at h
  split at h
  next i hi =>
    rcases exec_keepsOrEntersFault i s t h with ⟨hkept, -, -⟩ | ⟨c, rfl⟩
    · rw [hkept, hs] at ht
      cases ht
    · exact ⟨c, by rw [encode_of_decode hi]⟩
  next e _ =>
    cases h
    exact ⟨.illegalCommand, rfl⟩

/-- Settles O15: a step that presents a word issues it, and where that faults it is fault entry with the word, which
writes the three fault registers alone. -/
theorem faultEntryChangesNothingElse : Obligations.FaultEntryChangesNothingElse := by
  refine ⟨⟨rfl, rfl, rfl, rfl, rfl, rfl, rfl, rfl, rfl, rfl, rfl⟩, ?_⟩
  intro s t w rest hs hpending hstep ht
  rw [step_of_command hpending] at hstep
  obtain ⟨c, rfl⟩ := eq_enterFault_of_issue (s := taken s rest .completed) hs hstep ht
  exact ⟨c, rfl⟩

/-! ### The commands that never fault -/

/-- A command whose only check is that of its immediate completes when the immediate is legal. -/
theorem exec_of_legal {i : Instr} {s t : State} {legal : Bool} {f : Unit → Except Cause State}
    (hexec : exec i s = complete i s (needLegal legal >>= f)) (hlegal : legal = true) (hf : f () = .ok t) :
    exec i s = .next t := by
  rw [hexec, (bind_ok ..).2 ⟨(), (needLegal_ok legal).2 hlegal, hf⟩, complete_ok]

/-- An active iterator that meets its invariant has a child to deliver (10_state.md R38, 44_subnets.md R291). -/
theorem Iter.nextChild_of_valid {it : Iter} (h : it.valid) (hactive : it.active = true) :
    ∃ pf, it.nextChild = some pf := by
  obtain ⟨A, hbase, hroom⟩ := h.room hactive
  exact ⟨child A it.base.bits it.l.toNat it.idx.toNat, by simp [nextChild, hbase, hroom, h.idx]⟩

/-- `SUBNEXT` stops on no iterator that meets its invariant. -/
theorem exists_execSubnext {s : State} (rd : PReg) (h : s.it.valid) : ∃ t, execSubnext rd s = .next t := by
  unfold execSubnext
  split
  next => exact ⟨_, rfl⟩
  next hactive =>
    split
    next => exact ⟨_, rfl⟩
    next =>
      obtain ⟨pf, hpf⟩ := Iter.nextChild_of_valid h (Bool.eq_true_of_not_eq_false hactive)
      exact ⟨_, by rw [hpf]⟩

/-- Settles O21: a listed command checks nothing, or its immediate alone, which is legal in a well-formed one, or it is
`SUBNEXT`, whose iterator has a child. -/
theorem neverFaultingCommands : Obligations.NeverFaultingCommands := by
  intro i s hlisted hwf hit
  change ∃ t, exec i s = .next t ∧ SameFaultRegs s t
  cases i with
  | nop | li | mov | clc | stc | add | addc | sub | subb | mul | and | or | xor | andn | not | cmp | clz | ctz | popcnt
  | bitlen | bswap | afromu32 | afromu128 | as4in6 | un4in6 | anum4 | anum16 | azero4 | azero16 | amov | rpref
  | rpbits | rpcont | rpcontl => exact ⟨_, rfl, rfl, rfl, rfl⟩
  | lshi | rshi | bit => exact ⟨_, exec_of_legal rfl hwf rfl, rfl, rfl, rfl⟩
  | trunc rd rs1 w =>
    exact ⟨_, exec_of_legal rfl (Laws.FieldsRoundTrip.legalWidth_of_wf w (of_decide_eq_true hwf)) rfl, rfl, rfl, rfl⟩
  | cvt rd rs1 w =>
    have hw := Laws.FieldsRoundTrip.legalWidth_of_wf w (of_decide_eq_true hwf)
    by_cases hfits : (readX s rs1).toNat < 2 ^ w.toNat
    · exact ⟨_, exec_of_legal rfl hw (if_pos hfits), rfl, rfl, rfl⟩
    · exact ⟨_, exec_of_legal rfl hw (if_neg hfits), rfl, rfl, rfl⟩
  | subnext rd =>
    obtain ⟨t, ht⟩ := exists_execSubnext rd hit
    exact ⟨t, ht, sameFaultRegs_of_execSubnext ht⟩
  | _ => cases hlisted

end Sys2Proof.Machine
end

section
/-! Decoding and encoding (30_encoding.md): each is the inverse of the other on the well-formed commands, and a word
that is no command is refused for the first of the three reasons that applies. -/

namespace Sys2Proof

/-! ### The command of an encoded word -/

/-- The word of six fields cuts into the fields it was put together from (R91). -/
theorem fieldsOf_wordOf (f : Fields) : fieldsOf (wordOf f) = f := by
  cases f
  simp only [fieldsOf, wordOf, Fields.mk.injEq]
  refine ⟨?op, ?rd, ?rs1, ?rs2, ?rs3, BitVec.extractLsb'_append_eq_right⟩
  all_goals
    apply BitVec.eq_of_getLsbD_eq
    simp only [BitVec.getLsbD_append, BitVec.getLsbD_extractLsb']
    grind

/-- The decoder reads a command's own word by the command's own fields. -/
theorem decode_encode_eq (i : Instr) : decode (encode i) = decodeFields (encodeFields i) := by
  rw [decode, encode, fieldsOf_wordOf]

open Laws in
/-- The round trip of every row of the opcode table (R97). -/
theorem decodeFields_encodeFields : ∀ i, FieldsRoundTrip.Statement i
  | .nop => FieldsRoundTrip.nop
  | .li rd imm => FieldsRoundTrip.li rd imm
  | .mov rd rs1 => FieldsRoundTrip.mov rd rs1
  | .csrr rd csr => FieldsRoundTrip.csrr rd csr
  | .csrwi csr imm => FieldsRoundTrip.csrwi csr imm
  | .clc => FieldsRoundTrip.clc
  | .stc => FieldsRoundTrip.stc
  | .add rd rs1 rs2 => FieldsRoundTrip.add rd rs1 rs2
  | .addc rd rs1 rs2 => FieldsRoundTrip.addc rd rs1 rs2
  | .sub rd rs1 rs2 => FieldsRoundTrip.sub rd rs1 rs2
  | .subb rd rs1 rs2 => FieldsRoundTrip.subb rd rs1 rs2
  | .mul rd rs1 rs2 => FieldsRoundTrip.mul rd rs1 rs2
  | .and rd rs1 rs2 => FieldsRoundTrip.and rd rs1 rs2
  | .or rd rs1 rs2 => FieldsRoundTrip.or rd rs1 rs2
  | .xor rd rs1 rs2 => FieldsRoundTrip.xor rd rs1 rs2
  | .andn rd rs1 rs2 => FieldsRoundTrip.andn rd rs1 rs2
  | .not rd rs1 => FieldsRoundTrip.not rd rs1
  | .lshi rd rs1 n => FieldsRoundTrip.lshi rd rs1 n
  | .rshi rd rs1 n => FieldsRoundTrip.rshi rd rs1 n
  | .lsh rd rs1 rs2 => FieldsRoundTrip.lsh rd rs1 rs2
  | .rsh rd rs1 rs2 => FieldsRoundTrip.rsh rd rs1 rs2
  | .cmp rs1 rs2 => FieldsRoundTrip.cmp rs1 rs2
  | .clz rd rs1 => FieldsRoundTrip.clz rd rs1
  | .ctz rd rs1 => FieldsRoundTrip.ctz rd rs1
  | .popcnt rd rs1 => FieldsRoundTrip.popcnt rd rs1
  | .bitlen rd rs1 => FieldsRoundTrip.bitlen rd rs1
  | .bit rs1 n => FieldsRoundTrip.bit rs1 n
  | .cvt rd rs1 w => FieldsRoundTrip.cvt rd rs1 w
  | .trunc rd rs1 w => FieldsRoundTrip.trunc rd rs1 w
  | .ldbe rd off => FieldsRoundTrip.ldbe rd off
  | .ldle rd off => FieldsRoundTrip.ldle rd off
  | .stbe rs1 off => FieldsRoundTrip.stbe rs1 off
  | .stle rs1 off => FieldsRoundTrip.stle rs1 off
  | .bswap rd rs1 => FieldsRoundTrip.bswap rd rs1
  | .ald4 rd off => FieldsRoundTrip.ald4 rd off
  | .ald16 rd off => FieldsRoundTrip.ald16 rd off
  | .ast4 rs1 off => FieldsRoundTrip.ast4 rs1 off
  | .ast16 rs1 off => FieldsRoundTrip.ast16 rs1 off
  | .afromu32 rd rs1 => FieldsRoundTrip.afromu32 rd rs1
  | .afromu128 rd rs1 => FieldsRoundTrip.afromu128 rd rs1
  | .atou32 rd rs1 => FieldsRoundTrip.atou32 rd rs1
  | .atou128 rd rs1 => FieldsRoundTrip.atou128 rd rs1
  | .atou128c rd rs1 => FieldsRoundTrip.atou128c rd rs1
  | .is4 rs1 => FieldsRoundTrip.is4 rs1
  | .is6 rs1 => FieldsRoundTrip.is6 rs1
  | .is4in6 rs1 => FieldsRoundTrip.is4in6 rs1
  | .as4in6 rd rs1 => FieldsRoundTrip.as4in6 rd rs1
  | .un4in6 rd rs1 => FieldsRoundTrip.un4in6 rd rs1
  | .aor rd rs1 rs2 => FieldsRoundTrip.aor rd rs1 rs2
  | .aand rd rs1 rs2 => FieldsRoundTrip.aand rd rs1 rs2
  | .axor rd rs1 rs2 => FieldsRoundTrip.axor rd rs1 rs2
  | .anot rd rs1 => FieldsRoundTrip.anot rd rs1
  | .aadd rd rs1 rs2 => FieldsRoundTrip.aadd rd rs1 rs2
  | .acmp rs1 rs2 => FieldsRoundTrip.acmp rs1 rs2
  | .abyte rd rs1 idx => FieldsRoundTrip.abyte rd rs1 idx
  | .abits4 rd n => FieldsRoundTrip.abits4 rd n
  | .abits16 rd n => FieldsRoundTrip.abits16 rd n
  | .anum4 rd rs1 => FieldsRoundTrip.anum4 rd rs1
  | .anum16 rd rs1 => FieldsRoundTrip.anum16 rd rs1
  | .azero4 rd => FieldsRoundTrip.azero4 rd
  | .azero16 rd => FieldsRoundTrip.azero16 rd
  | .amov rd rs1 => FieldsRoundTrip.amov rd rs1
  | .ippfx rd rs1 bits => FieldsRoundTrip.ippfx rd rs1 bits
  | .ippaddr rd rs1 => FieldsRoundTrip.ippaddr rd rs1
  | .ippbits rd rs1 => FieldsRoundTrip.ippbits rd rs1
  | .ipcont rs1 rs2 => FieldsRoundTrip.ipcont rs1 rs2
  | .ipcontl rs1 mask => FieldsRoundTrip.ipcontl rs1 mask
  | .rpfx rd rs1 bits => FieldsRoundTrip.rpfx rd rs1 bits
  | .rpref rd rs1 => FieldsRoundTrip.rpref rd rs1
  | .rpbits rd rs1 => FieldsRoundTrip.rpbits rd rs1
  | .rpcont rs1 rs2 => FieldsRoundTrip.rpcont rs1 rs2
  | .rpcontl rs1 mask => FieldsRoundTrip.rpcontl rs1 mask
  | .subinit rs1 l => FieldsRoundTrip.subinit rs1 l
  | .subnext rd => FieldsRoundTrip.subnext rd
  | .elen rd fmt => FieldsRoundTrip.elen rd fmt
  | .elenof rd rs1 rs3 fmt => FieldsRoundTrip.elenof rd rs1 rs3 fmt
  | .encLeg rd rs1 rs2 rs3 off => FieldsRoundTrip.encLeg rd rs1 rs2 rs3 off
  | .decLeg rd rs1 rs2 rs3 off => FieldsRoundTrip.decLeg rd rs1 rs2 rs3 off
  | .encCur rd rs1 rs2 rs3 off => FieldsRoundTrip.encCur rd rs1 rs2 rs3 off
  | .chkCur off => FieldsRoundTrip.chkCur off
  | .decCur rd rs1 rs2 rs3 off => FieldsRoundTrip.decCur rd rs1 rs2 rs3 off

/-- Settles O1: a word is cut into the fields it was put together from, and each row of the table reads back the fields
it writes. -/
theorem decodeOfEncode : Obligations.DecodeOfEncode := by
  intro i hi
  rw [decode_encode_eq, decodeFields_encodeFields i hi]

/-! ### The well-formed command of a word -/

theorem mem_widths_of_legalWidth {w : Imm8} (h : legalWidth w = true) : w.toNat ∈ [8, 16, 32, 64] := by
  simp only [legalWidth, Bool.or_eq_true, beq_iff_eq] at h
  rcases h with ((rfl | rfl) | rfl) | rfl <;> decide

theorem lt_two_of_legalFormat {fmt : Imm8} (h : legalFormat fmt = true) : fmt.toNat < 2 := by
  simp only [legalFormat, Bool.or_eq_true, beq_iff_eq] at h
  rcases h with rfl | rfl <;> decide

/-- A row of the table accepts the encodable immediates alone (R94). -/
theorem wf_of_decodeFields {f : Fields} {i : Instr} (h : decodeFields f = .ok i) : i.wf = true := by
  unfold decodeFields at h
  split at h
  case h_82 => cases h
  all_goals
    obtain ⟨-, himm, rfl⟩ := accept_eq_ok.1 h
    simp only [Instr.wf, decide_eq_true_eq]
  case h_18 | h_19 | h_27 => exact of_decide_eq_true himm
  case h_28 | h_29 => exact mem_widths_of_legalWidth himm
  case h_75 | h_76 => exact lt_two_of_legalFormat himm

/-- Settles O2: the row that accepts a word's fields has checked its immediate, and its command is written to the same
fields (`encode_of_decode`). -/
theorem encodeOfDecode : Obligations.EncodeOfDecode := by
  intro w i h
  exact ⟨wf_of_decodeFields h, encode_of_decode h⟩

/-! ### Words that are no command -/

theorem accept_ne_unassignedOpcode (reservedZero immLegal : Bool) (i : Instr) :
    accept reservedZero immLegal i ≠ .error .unassignedOpcode := by
  cases reservedZero <;> cases immLegal <;> simp [accept]

/-- The opcodes between and after the rows of R97 (30_encoding.md R96). -/
def Unassigned (op : Nat) : Prop :=
  (0x07 ≤ op ∧ op ≤ 0x0f) ∨ (0x26 ≤ op ∧ op ≤ 0x2f) ∨ (0x35 ≤ op ∧ op ≤ 0x3f) ∨ (0x5c ≤ op ∧ op ≤ 0x5f) ∨
  (0x6a ≤ op ∧ op ≤ 0x6f) ∨ (0x72 ≤ op ∧ op ≤ 0x7f) ∨ 0x87 ≤ op

theorem decodeFields_eq_unassignedOpcode (f : Fields) :
    decodeFields f = .error .unassignedOpcode ↔ Unassigned f.op.toNat := by
  unfold decodeFields
  split
  case h_82 =>
    refine iff_of_true rfl ?_
    unfold Unassigned
    simp only [BitVec.toNat_eq, BitVec.toNat_ofNat, imp_false] at *
    omega
  all_goals
    next hop =>
      rw [hop]
      exact iff_of_false (accept_ne_unassignedOpcode _ _ _) (by unfold Unassigned; decide)

/-- Settles O4: no row of the table answers that the opcode is unassigned, and the opcodes without a row are those of
the list. -/
theorem unassignedOpcodesRefused : Obligations.UnassignedOpcodesRefused := by
  intro w
  exact decodeFields_eq_unassignedOpcode (fieldsOf w)

/-- A row whose reserved fields are zero comes to the check of the immediate (30_encoding.md R98, step 3). -/
theorem decodeFields_of_illegal {f : Fields} {legal : Bool} {i : Instr} (hrow : decodeFields f = accept true legal i)
    (hlegal : legal = false) : decodeFields f = .error .illegalImmediate := by
  rw [hrow, hlegal]
  rfl

/-- Settles O5: an ill-formed command is one of the seven with a checked immediate, and its own word has zero in every
reserved field. -/
theorem illegalImmediatesRefused : Obligations.IllegalImmediatesRefused := by
  intro i hi
  rw [decode_encode_eq]
  cases i with
  | lshi | rshi | bit => exact decodeFields_of_illegal rfl hi
  | cvt | trunc =>
    exact decodeFields_of_illegal rfl <|
      Bool.eq_false_iff.2 fun h => of_decide_eq_false hi (mem_widths_of_legalWidth h)
  | elen | elenof =>
    exact decodeFields_of_illegal rfl <|
      Bool.eq_false_iff.2 fun h => of_decide_eq_false hi (lt_two_of_legalFormat h)
  | _ => cases hi

/-- Settles O3: the decoder run on each written word. -/
theorem writtenWordsDecode : Obligations.WrittenWordsDecode := by
  unfold Obligations.WrittenWordsDecode
  decide

end Sys2Proof
end

section
/-! What a command can write (10_state.md sections 2 to 7): one frame, kept by each update a command may make and by
fault entry, and met by every command. The statements about what no other command does are its parts. -/

namespace Sys2Proof.Machine

/-! ### Sequences of checks that end in a property -/

/-- A command that passes its checks leaves a state with the property. -/
def Ensures (P : State → Prop) (r : Except Cause State) : Prop := ∀ t, r = .ok t → P t

section Checks

variable {P : State → Prop}

theorem Ensures.ok {t : State} (h : P t) : Ensures P (.ok t) := by
  rintro _ ⟨⟩
  exact h

theorem Ensures.error (c : Cause) : Ensures P (.error c) := by
  rintro _ ⟨⟩

theorem Ensures.bind {α : Type} {x : Except Cause α} {f : α → Except Cause State}
    (h : ∀ a, x = .ok a → Ensures P (f a)) : Ensures P (x >>= f) := by
  intro t ht
  obtain ⟨a, hx, ha⟩ := (bind_ok x f t).1 ht
  exact h a hx t ha

theorem Ensures.ite {p : Prop} [Decidable p] {x y : Except Cause State} (hx : p → Ensures P x)
    (hy : ¬ p → Ensures P y) : Ensures P (if p then x else y) := by
  split
  next h => exact hx h
  next h => exact hy h

end Checks

/-! ### The frame of a command -/

/-- From `s` to `u` nothing changes but what the lists of Safety.lean let the command write. -/
structure WithinFrame (i : Instr) (s u : State) : Prop where
  c : writesC i = false → u.c = s.c
  t : writesT i = false → u.t = s.t
  ok : writesOK i = false → u.ok = s.ok
  cc : writesCC i = false → u.cc = s.cc
  x : ∀ r, xDest i ≠ some r → readX u r = readX s r
  a : ∀ r, r ∉ aDests i → readA u r = readA s r
  p : ∀ r, pDest i ≠ some r → readP u r = readP s r
  q : ∀ r, qDest i ≠ some r → readQ u r = readQ s r
  bufLen : (∀ imm, i ≠ .csrwi 1 imm) → u.bufLen = s.bufLen
  lenCfg : (∀ imm, i ≠ .csrwi 2 imm) → u.lenCfg = s.lenCfg
  rlen : writesRLen i = false → u.rlen = s.rlen
  it : writesIt i = false → u.it = s.it
  buf : writesBuf i = false → u.buf = s.buf
  pending : u.pending = s.pending
  reply : u.reply = s.reply

namespace WithinFrame

variable {i : Instr} {s u : State}

theorem refl : WithinFrame i s s :=
  ⟨fun _ => rfl, fun _ => rfl, fun _ => rfl, fun _ => rfl, fun _ _ => rfl, fun _ _ => rfl, fun _ _ => rfl,
    fun _ _ => rfl, fun _ => rfl, fun _ => rfl, fun _ => rfl, fun _ => rfl, fun _ => rfl, rfl, rfl⟩

theorem enterFault (h : WithinFrame i s u) (c : Cause) (w : CmdWord) :
    WithinFrame i s (Machine.enterFault u c w) := { h with }

theorem writeX (h : WithinFrame i s u) {r : XReg} {v : U128} (hd : xDest i = some r) :
    WithinFrame i s (Machine.writeX u r v) :=
  { h with
    x := fun k hk => by
      have hne : r ≠ k := by rintro rfl; exact hk hd
      rw [readX_writeX, if_neg hne]
      exact h.x k hk }

theorem writeA (h : WithinFrame i s u) {r : AReg} {v : IPVal} (hd : r ∈ aDests i) :
    WithinFrame i s (Machine.writeA u r v) :=
  { h with
    a := fun k hk => by
      have hne : r ≠ k := by rintro rfl; exact hk hd
      rw [readA_writeA, if_neg hne]
      exact h.a k hk }

theorem writeP (h : WithinFrame i s u) {r : PReg} {v : IPPfx} (hd : pDest i = some r) :
    WithinFrame i s (Machine.writeP u r v) :=
  { h with
    p := fun k hk => by
      have hne : r ≠ k := by rintro rfl; exact hk hd
      rw [readP_writeP, if_neg hne]
      exact h.p k hk }

theorem writeQ (h : WithinFrame i s u) {r : QReg} {v : RefPfx} (hd : qDest i = some r) :
    WithinFrame i s (Machine.writeQ u r v) :=
  { h with
    q := fun k hk => by
      have hne : r ≠ k := by rintro rfl; exact hk hd
      rw [readQ_writeQ, if_neg hne]
      exact h.q k hk }

theorem setC (h : WithinFrame i s u) {b : Bool} (hd : writesC i = true) : WithinFrame i s (Machine.setC u b) :=
  { h with c := fun hn => Bool.noConfusion (hd.symm.trans hn) }

theorem setT (h : WithinFrame i s u) {b : Bool} (hd : writesT i = true) : WithinFrame i s (Machine.setT u b) :=
  { h with t := fun hn => Bool.noConfusion (hd.symm.trans hn) }

theorem setOK (h : WithinFrame i s u) {b : Bool} (hd : writesOK i = true) : WithinFrame i s (Machine.setOK u b) :=
  { h with ok := fun hn => Bool.noConfusion (hd.symm.trans hn) }

theorem setCC (h : WithinFrame i s u) {r : CmpResult} (hd : writesCC i = true) : WithinFrame i s (Machine.setCC u r) :=
  { h with cc := fun hn => Bool.noConfusion (hd.symm.trans hn) }

theorem setBufLen (h : WithinFrame i s u) {v : BitVec 9} {imm : Imm16} (hd : i = .csrwi 1 imm) :
    WithinFrame i s (Machine.setBufLen u v) :=
  { h with bufLen := fun hn => absurd hd (hn imm) }

theorem setLenCfg (h : WithinFrame i s u) {v : BitVec 16} {imm : Imm16} (hd : i = .csrwi 2 imm) :
    WithinFrame i s (Machine.setLenCfg u v) :=
  { h with lenCfg := fun hn => absurd hd (hn imm) }

theorem setRLen (h : WithinFrame i s u) {n : Nat} (hd : writesRLen i = true) : WithinFrame i s (Machine.setRLen u n) :=
  { h with rlen := fun hn => Bool.noConfusion (hd.symm.trans hn) }

theorem setIt (h : WithinFrame i s u) {it : Iter} (hd : writesIt i = true) : WithinFrame i s (Machine.setIt u it) :=
  { h with it := fun hn => Bool.noConfusion (hd.symm.trans hn) }

theorem setBuf (h : WithinFrame i s u) {m : Memory} (hd : writesBuf i = true) : WithinFrame i s (Machine.setBuf u m) :=
  { h with buf := fun hn => Bool.noConfusion (hd.symm.trans hn) }

theorem notOk (hok : writesOK i = true) (hrlen : writesRLen i = true) : WithinFrame i s (Machine.notOk s) :=
  (refl.setOK hok).setRLen hrlen

theorem writeRecord {rd : XReg} {rs1 rs2 rs3 : AReg} {r : RecordValues} {L : Nat} (hx : xDest i = some rd)
    (ha : aDests i = [rs1, rs2, rs3]) (hok : writesOK i = true) (hrlen : writesRLen i = true) :
    WithinFrame i s (Machine.writeRecord s rd rs1 rs2 rs3 r L) := by
  have h1 : rs1 ∈ aDests i := by simp [ha]
  have h2 : rs2 ∈ aDests i := by simp [ha]
  have h3 : rs3 ∈ aDests i := by simp [ha]
  exact (((((refl.writeA h1).writeA h2).writeA h3).writeX hx).setOK hok).setRLen hrlen

end WithinFrame

/-- Every state the command answers is within its frame. -/
def Framed (i : Instr) (s : State) (r : Result) : Prop := ∀ t, r = .next t → WithinFrame i s t

theorem Framed.next {i : Instr} {s t : State} (h : WithinFrame i s t) : Framed i s (.next t) := by
  rintro _ ⟨⟩
  exact h

theorem Framed.complete {i : Instr} {s : State} {r : Except Cause State} (h : Ensures (WithinFrame i s) r) :
    Framed i s (complete i s r) := by
  intro t ht
  rcases (complete_next i s t r).1 ht with hok | ⟨c, -, rfl⟩
  · exact h t hok
  · exact WithinFrame.refl.enterFault c _

theorem ensures_memWrite {i : Instr} {s : State} (hd : writesBuf i = true) (k : Nat) (B : List Byte) :
    Ensures (WithinFrame i s) (memWrite s k B) := by
  intro t ht
  obtain ⟨-, rfl⟩ := (memWrite_ok ..).1 ht
  exact WithinFrame.refl.setBuf hd

theorem ensures_encodeRecord {i : Instr} {s : State} (hbuf : writesBuf i = true) (hrlen : writesRLen i = true)
    (header : Family → Family → List Byte) (rd : XReg) (rs1 rs2 rs3 : AReg) (off : Imm8) :
    Ensures (WithinFrame i s) (encodeRecord header rd rs1 rs2 rs3 off s) := by
  intro t ht
  obtain ⟨ea, ip, gw, -, -, -, -, -, rfl⟩ := (encodeRecord_ok ..).1 ht
  exact (WithinFrame.refl.setBuf hbuf).setRLen hrlen

theorem framed_subnext (rd : PReg) (s : State) : Framed (.subnext rd) s (execSubnext rd s) := by
  intro t h
  unfold execSubnext at h
  split at h
  next => cases h; exact WithinFrame.refl.setOK rfl
  next =>
    split at h
    next => cases h; exact (WithinFrame.refl.setIt rfl).setOK rfl
    next =>
      split at h
      next => cases h; exact ((WithinFrame.refl.writeP rfl).setIt rfl).setOK rfl
      next => cases h

/-- Every command keeps to its frame. The commands are taken by what they write, and among these by how many checks
come before the write. -/
theorem exec_framed (i : Instr) (s : State) : Framed i s (exec i s) := by
  cases i with
  | nop => exact .next .refl
  | li | mov | add | sub | mul | and | or | xor | andn | not | clz | ctz | popcnt | bitlen | bswap | rpref | rpbits =>
    exact .next (.writeX .refl rfl)
  | csrr | lshi | rshi | lsh | rsh | trunc | ldbe | ldle | atou128 | atou128c | ippbits =>
    exact .complete (.bind fun _ _ => .ok (.writeX .refl rfl))
  | atou32 | elen => exact .complete (.bind fun _ _ => .bind fun _ _ => .ok (.writeX .refl rfl))
  | elenof => exact .complete (.bind fun _ _ => .bind fun _ _ => .bind fun _ _ => .ok (.writeX .refl rfl))
  | abyte => exact .complete (.bind fun _ _ => .ite (fun _ => .error _) fun _ => .ok (.writeX .refl rfl))
  | cvt =>
    exact .complete (.bind fun _ _ => .ite (fun _ => .ok (.setOK (.writeX .refl rfl) rfl)) fun _ =>
      .ok (.setOK .refl rfl))
  | afromu32 | afromu128 | as4in6 | un4in6 | anum4 | anum16 | azero4 | azero16 | amov =>
    exact .next (.writeA .refl (List.mem_singleton_self _))
  | ald4 | ald16 | aor | aand | axor | anot | aadd | abits4 | abits16 | ippaddr =>
    exact .complete (.bind fun _ _ => .ok (.writeA .refl (List.mem_singleton_self _)))
  | ippfx => exact .complete (.bind fun _ _ => .bind fun _ _ => .ok (.writeP .refl rfl))
  | rpfx => exact .complete (.ite (fun _ => .error _) fun _ => .ok (.writeQ .refl rfl))
  | addc | subb => exact .next (.setC (.writeX .refl rfl) rfl)
  | clc | stc => exact .next (.setC .refl rfl)
  | rpcont | rpcontl => exact .next (.setT .refl rfl)
  | bit | is4 | is6 | is4in6 => exact .complete (.bind fun _ _ => .ok (.setT .refl rfl))
  | ipcontl => exact .complete (.bind fun _ _ => .bind fun _ _ => .ok (.setT .refl rfl))
  | ipcont => exact .complete (.bind fun _ _ => .bind fun _ _ => .bind fun _ _ => .ok (.setT .refl rfl))
  | cmp => exact .next (.setCC .refl rfl)
  | acmp => exact .complete (.bind fun _ _ => .bind fun _ _ => .ok (.setCC .refl rfl))
  | csrwi csr imm =>
    refine .complete (.ite (fun h1 => .ite (fun _ => .error _) fun _ => .ok (.setBufLen .refl (imm := imm) ?_)) fun _ =>
      .ite (fun h2 => .ok (.setLenCfg .refl (imm := imm) ?_)) fun _ => .error _)
    · rw [h1]
    · rw [h2]
  | subinit =>
    exact .complete (.bind fun _ _ => .ite (fun _ => .ok (.setOK (.setIt .refl rfl) rfl)) fun _ =>
      .ok (.setOK (.setIt .refl rfl) rfl))
  | subnext rd => exact framed_subnext rd s
  | stbe | stle => exact .complete (ensures_memWrite rfl _ _)
  | ast4 | ast16 => exact .complete (.bind fun _ _ => .bind fun _ _ => ensures_memWrite rfl _ _)
  | encLeg | encCur => exact .complete (ensures_encodeRecord rfl rfl _ _ _ _ _ _)
  | decLeg =>
    exact .complete (.bind fun _ _ => .bind fun _ _ => .ite (fun _ => .ok (.notOk rfl rfl)) fun _ =>
      .ok (.writeRecord rfl rfl rfl rfl))
  | chkCur =>
    refine .complete (.bind fun W _ => ?_)
    cases checkRecord W with
    | none => exact .ok (.notOk rfl rfl)
    | some families => exact .ok (.setRLen (.setOK .refl rfl) rfl)
  | decCur =>
    refine .complete (.bind fun W _ => ?_)
    cases checkRecord W with
    | none => exact .ok (.notOk rfl rfl)
    | some families => exact .ok (.writeRecord rfl rfl rfl rfl)

/-! ### The statements, part by part -/

/-- Settles O16: the flags of the frame. -/
theorem flagsWrittenOnlyByTheirCommands : Obligations.FlagsWrittenOnlyByTheirCommands := by
  intro i s t h
  have frame := exec_framed i s t h
  exact ⟨frame.c, frame.t, frame.ok, frame.cc⟩

/-- Settles O17: the register files of the frame. -/
theorem registersWrittenOnlyByTheirCommands : Obligations.RegistersWrittenOnlyByTheirCommands := by
  intro i s t h
  have frame := exec_framed i s t h
  exact ⟨frame.x, frame.a, frame.p, frame.q⟩

/-- Settles O18: the control registers, the iterator, `BUF` and the host's side of the frame. -/
theorem controlStateWrittenOnlyByItsCommands : Obligations.ControlStateWrittenOnlyByItsCommands := by
  intro i s t h
  have frame := exec_framed i s t h
  exact ⟨frame.bufLen, frame.lenCfg, frame.rlen, frame.it, frame.buf, frame.pending, frame.reply⟩

end Sys2Proof.Machine
end

section
/-! One step (70_reset_and_hazards.md R411): what it does with each interaction of the host, running and in the fault
state, that it keeps the invariant of Safety.lean, and that it always answers. -/

namespace Sys2Proof.Machine

/-! ### One interaction -/

theorem step_of_nothing {s : State} (h : s.pending = []) : step s = .next s := by
  rw [step, serve, h]

theorem step_of_write {s : State} {k : BitVec 8} {b : Byte} {rest : List HostAction}
    (h : s.pending = .write k b :: rest) : step s = .next (setBuf (taken s rest .nothing) (s.buf.write k.toNat b)) := by
  rw [step, serve, h]

theorem step_of_read {s : State} {k : BitVec 8} {rest : List HostAction} (h : s.pending = .read k :: rest) :
    step s = .next (taken s rest (.byte (s.buf.read k.toNat))) := by
  rw [step, serve, h]

theorem step_of_sample {s : State} {rest : List HostAction} (h : s.pending = .sample :: rest) :
    step s = .next (taken s rest (.status (statusPort s))) := by
  rw [step, serve, h]

theorem step_of_reset {s : State} {rest : List HostAction} (h : s.pending = .reset :: rest) :
    step s = .next (assertReset (taken s rest .resetState)) := by
  rw [step, serve, h]

/-! ### A command word -/

/-- In the fault state a command word is ignored (60_exceptions.md R381). -/
theorem issue_of_faulted {s : State} (w : CmdWord) (h : s.fault = true) : issue w s = .next s := by
  rw [issue, if_pos h]

theorem issue_of_decode {s : State} {w : CmdWord} {i : Instr} (h : s.fault = false) (hw : decode w = .ok i) :
    issue w s = exec i s := by
  rw [issue, h, if_neg Bool.false_ne_true, hw]

theorem issue_of_illegal {s : State} {w : CmdWord} {e : DecodeError} (h : s.fault = false)
    (hw : decode w = .error e) : issue w s = .next (enterFault s .illegalCommand w) := by
  rw [issue, h, if_neg Bool.false_ne_true, hw]

/-- Settles O6: the word is issued to the running unit and no command is decoded from it. -/
theorem illegalWordEntersFault : Obligations.IllegalWordEntersFault := by
  intro s w rest e hs hpending hw
  exact (step_of_command hpending).trans (issue_of_illegal hs hw)

/-- Settles O7: the word is issued to the running unit, and what is decoded is well formed (`encodeOfDecode`). -/
theorem stepRunsDecodedCommand : Obligations.StepRunsDecodedCommand := by
  intro s w rest i hs hpending hw
  exact ⟨wf_of_decodeFields hw, (step_of_command hpending).trans (issue_of_decode hs hw)⟩

/-! ### The host port, the status port and reset -/

/-- A byte the host writes reads back, and every other byte and every other piece of state stay (20_memory.md R70). -/
theorem exists_step_of_write {s : State} {k : BitVec 8} {b : Byte} {rest : List HostAction} (hw : s.buf.wf)
    (h : s.pending = .write k b :: rest) :
    ∃ t, step s = .next t ∧ (∀ j, t.buf.read j = if j = k.toNat then b else s.buf.read j) ∧
      { t with buf := s.buf } = { s with pending := rest, reply := .nothing } := by
  refine ⟨_, step_of_write h, fun j => ?_, rfl⟩
  rw [setBuf_buf, Memory.read_write _ _ _ _ hw]
  simp only [eq_comm]

/-- Settles O10: the five interactions that are no command. -/
theorem hostInteractions : Obligations.HostInteractions := by
  intro s hw
  exact ⟨fun k b rest h => exists_step_of_write hw h, fun k rest h => step_of_read h,
    fun rest h => step_of_sample h, fun rest h => step_of_reset h, fun h => step_of_nothing h⟩

/-! ### The fault state -/

/-- In the fault state an interaction that is no reset changes nothing but `BUF` and the host's side. -/
theorem step_of_faulted {s : State} (hs : s.fault = true) (h : ∀ rest, s.pending ≠ .reset :: rest) :
    ∃ t, step s = .next t ∧ t.pending = s.pending.tail ∧
      { t with buf := s.buf, pending := s.pending, reply := s.reply } = s := by
  match hp : s.pending with
  | [] => exact ⟨s, step_of_nothing hp, by rw [hp, List.tail_nil], by rw [← hp]⟩
  | .command w :: rest =>
    exact ⟨taken s rest .completed, (step_of_command hp).trans (issue_of_faulted w hs), rfl, by rw [← hp]; rfl⟩
  | .write k b :: rest => exact ⟨_, step_of_write hp, rfl, by rw [← hp]; rfl⟩
  | .read k :: rest => exact ⟨_, step_of_read hp, rfl, by rw [← hp]; rfl⟩
  | .sample :: rest => exact ⟨_, step_of_sample hp, rfl, by rw [← hp]; rfl⟩
  | .reset :: rest => exact absurd hp (h rest)

/-- Settles O8: a command word is ignored, the ports are served as ever, and a step that is no reset keeps `FAULT`
(`step_of_faulted`). -/
theorem faultStateIgnoresCommands : Obligations.FaultStateIgnoresCommands := by
  intro s hs hw
  refine ⟨fun w rest h => ?command, fun k b rest h => exists_step_of_write hw h, fun k rest h => step_of_read h,
    fun rest h => ?sample, fun t ht hrunning => ?reset⟩
  case command => exact (step_of_command h).trans (issue_of_faulted w hs)
  case sample =>
    rw [step_of_sample h, statusPort, taken, hs]
  case reset =>
    by_contra hno
    obtain ⟨u, hu, -, hkept⟩ := step_of_faulted hs (not_exists.1 hno)
    obtain rfl : u = t := by simpa [hu] using ht
    have hfault : u.fault = s.fault := (congrArg State.fault hkept :)
    rw [hfault, hs] at hrunning
    cases hrunning

/-- A run goes on from the state its first step leaves. -/
theorem run_succ_of_step (M : Host.Core) {s u : M.State} (k : Nat) (h : M.step s = .next u) :
    M.run (k + 1) s = M.run k u := by
  rw [Host.Core.run, h]

/-- Settles O9, by induction on the number of steps: each keeps all but `BUF` and the host's side (`step_of_faulted`),
so the unit is still in the fault state, with the rest of the interactions to come. -/
theorem faultHeldUntilReset : Obligations.FaultHeldUntilReset := by
  intro k
  induction k with
  | zero => exact fun s _ _ => ⟨s, rfl, rfl⟩
  | succ k ih =>
    intro s hs hpending
    have hno : ∀ rest, s.pending ≠ .reset :: rest := fun rest h => hpending .reset (by simp [h]) rfl
    obtain ⟨u, hu, htail, hkept⟩ := step_of_faulted hs hno
    have hfault : u.fault = true := (congrArg State.fault hkept :).trans hs
    have hrest : ∀ a ∈ u.pending.take k, a ≠ .reset := by
      intro a ha
      rw [htail] at ha
      cases hp : s.pending with
      | nil => simp [hp] at ha
      | cons b rest => exact hpending a (by rw [hp] at ha ⊢; exact List.mem_cons_of_mem b ha)
    obtain ⟨t, ht, hlast⟩ := ih u hfault hrest
    refine ⟨t, ?_, ?_⟩
    · exact (run_succ_of_step Sys2Proof.core k hu).trans ht
    · rw [← hkept, ← hlast]

/-! ### The invariant through a command -/

theorem State.Inv.writeX {s : State} (h : s.Inv) (r : XReg) (v : U128) : (Machine.writeX s r v).Inv := { h with }

theorem State.Inv.writeA {s : State} (h : s.Inv) (r : AReg) (v : IPVal) : (Machine.writeA s r v).Inv := { h with }

theorem State.Inv.setOK {s : State} (h : s.Inv) (b : Bool) : (Machine.setOK s b).Inv := { h with }

theorem State.Inv.setLenCfg {s : State} (h : s.Inv) (v : BitVec 16) : (Machine.setLenCfg s v).Inv := { h with }

theorem State.Inv.taken {s : State} (h : s.Inv) (rest : List HostAction) (r : HostReply) :
    (Machine.taken s rest r).Inv := { h with }

theorem State.Inv.notOk {s : State} (h : s.Inv) : (Machine.notOk s).Inv := (h.setOK false).setRLen 0 (Nat.zero_le _)

/-- The longest record has 68 bytes (45_addrrec_codec.md R316). -/
theorem recordLen_le {header : Nat} (h : header ≤ 4) (ea gw : Family) : recordLen header ea gw ≤ 68 := by
  cases ea <;> cases gw <;> simp only [recordLen, Family.len, Config.refLen] <;> omega

theorem State.Inv.writeRecord {s : State} (h : s.Inv) (rd : XReg) (rs1 rs2 rs3 : AReg) (r : RecordValues) {L : Nat}
    (hL : L ≤ 68) : (Machine.writeRecord s rd rs1 rs2 rs3 r L).Inv :=
  (((((h.writeA rs1 _).writeA rs2 _).writeA rs3 _).writeX rd _).setOK true).setRLen L hL

/-- What `IPPFX` makes is valid (10_state.md R22). -/
theorem valid_of_maskIP {v m : IPAddr} {k : Nat} (h : maskIP v k = .ok m) :
    IPPfx.valid { addr := .addr m, bits := Fin.ofNat 129 k } := by
  obtain ⟨hk, rfl⟩ := (maskIP_ok v k m).1 h
  have hbits : (Fin.ofNat 129 k).val = k := Nat.mod_eq_of_lt (by have := v.len_le; omega)
  simp only [IPPfx.valid, ip_len, IPAddr.family_len, hbits]
  exact ⟨hk, ip_mod _ _ _ (Nat.sub_le _ _) (and_topMask_mod _ _ _ hk v.len_le)⟩

/-- What `RPFX` makes is valid (10_state.md R23). -/
theorem valid_maskRef (r : U128) {k : Nat} (h : k ≤ 128) :
    RefPfx.valid { ref := maskRef r k, bits := Fin.ofNat 129 k } := by
  have hbits : (Fin.ofNat 129 k).val = k := Nat.mod_eq_of_lt (by omega)
  simp only [RefPfx.valid, hbits]
  exact and_topMask_mod r 128 k h le_rfl

/-- A successful `SUBINIT` leaves a valid iterator: its base is a `p` register, with room for `l` more bits. -/
theorem valid_of_subinit {pf : IPPfx} {A : IPAddr} {l : Imm8} (hpf : pf.valid) (hA : pf.addr = .addr A)
    (hl : l.toNat < 64) (hroom : pf.bits.val + l.toNat ≤ 8 * A.len) :
    Iter.valid { active := true, base := pf, l := l.setWidth 6, idx := 0 } := by
  have hwidth : (l.setWidth 6).toNat = l.toNat := by
    rw [BitVec.toNat_setWidth]
    exact Nat.mod_eq_of_lt hl
  exact ⟨hpf, Nat.zero_le _, fun _ => ⟨A, hA, by simpa only [hwidth] using hroom⟩⟩

/-- An iterator below its end stays valid when its index goes up by one: `2^l` fits the index, as `l` is below 64. -/
theorem Iter.valid_succ {it : Iter} (h : it.valid) (hne : it.idx.toNat ≠ 2 ^ it.l.toNat) :
    ({ it with idx := it.idx + 1 } : Iter).valid := by
  obtain ⟨hbase, hidx, hroom⟩ := h
  refine ⟨hbase, ?_, hroom⟩
  have hup : (it.idx + 1).toNat ≤ it.idx.toNat + 1 := by
    rw [BitVec.toNat_add]
    exact Nat.mod_le _ _
  show (it.idx + 1).toNat ≤ 2 ^ it.l.toNat
  omega

/-- The next child of a valid iterator is valid. -/
theorem Iter.valid_nextChild {it : Iter} {pf : IPPfx} (h : it.valid) (hpf : it.nextChild = some pf) : pf.valid := by
  unfold nextChild at hpf
  split at hpf
  next => cases hpf
  next A hA =>
    obtain ⟨hroom, ⟨⟩⟩ := Option.ite_none_right_eq_some.1 hpf
    obtain ⟨hbase, -, -⟩ := h
    exact child_valid A it.base.bits _ _ (by rw [← hA]; exact hbase) hroom.1

theorem ensures_inv_memWrite {s : State} (h : s.Inv) (k : Nat) (B : List Byte) :
    Ensures State.Inv (memWrite s k B) := by
  intro t ht
  obtain ⟨hfit, rfl⟩ := (memWrite_ok ..).1 ht
  exact h.setBuf_writeBytes k B hfit

theorem ensures_inv_encodeRecord {s : State} (h : s.Inv) {header : Family → Family → List Byte}
    (hheader : ∀ n m, (header n m).length ≤ 4) (rd : XReg) (rs1 rs2 rs3 : AReg) (off : Imm8) :
    Ensures State.Inv (encodeRecord header rd rs1 rs2 rs3 off s) := by
  intro t ht
  obtain ⟨ea, ip, gw, -, -, -, -, hfit, rfl⟩ := (encodeRecord_ok ..).1 ht
  refine (h.setBuf_writeBytes _ _ hfit).setRLen _ ?_
  have hea := ea.len_le
  have hip := ip.len_le
  have hgw := gw.len_le
  have hhead := hheader ea.family gw.family
  rw [List.length_append, recordBody_length]
  omega

/-- The states a command answers from `s` meet the invariant. -/
def AnswersInv (r : Result) : Prop := ∀ t, r = .next t → t.Inv

theorem AnswersInv.complete {i : Instr} {s : State} {r : Except Cause State} (hs : s.Inv)
    (h : Ensures State.Inv r) : AnswersInv (complete i s r) := by
  intro t ht
  rcases (complete_next i s t r).1 ht with hok | ⟨c, -, rfl⟩
  · exact h t hok
  · exact hs.enterFault c _

/-- A command that by its frame writes no piece the invariant speaks of keeps it. -/
theorem AnswersInv.of_frame {i : Instr} {s : State} (hs : s.Inv) (hp : pDest i = none) (hq : qDest i = none)
    (hlen : ∀ imm, i ≠ .csrwi 1 imm) (hrlen : writesRLen i = false) (hit : writesIt i = false)
    (hbuf : writesBuf i = false) : AnswersInv (exec i s) := by
  intro t ht
  have frame := exec_framed i s t ht
  rcases exec_keepsOrEntersFault i s t ht with ⟨hfault, hcause, hcmd⟩ | ⟨c, rfl⟩
  · exact hs.congr ⟨frame.buf hbuf, fun r => frame.p r (by simp [hp]), fun r => frame.q r (by simp [hq]),
      frame.it hit, frame.bufLen hlen, frame.rlen hrlen, hfault, hcause, hcmd⟩
  · exact hs.enterFault c _

theorem answersInv_subnext {s : State} (hs : s.Inv) (rd : PReg) : AnswersInv (execSubnext rd s) := by
  intro t h
  unfold execSubnext at h
  split at h
  next => cases h; exact hs.setOK _
  next =>
    split at h
    next => cases h; exact (hs.setIt _ (s.it.valid_stop hs.it)).setOK _
    next hmore =>
      split at h
      next pf hpf =>
        cases h
        exact ((hs.writeP _ _ (Iter.valid_nextChild hs.it hpf)).setIt _ (Iter.valid_succ hs.it hmore)).setOK _
      next => cases h

/-- Every command keeps the invariant: those that write a piece it speaks of one by one, the others by their frame. -/
theorem exec_answersInv {s : State} (hs : s.Inv) (i : Instr) : AnswersInv (exec i s) := by
  cases i with
  | csrwi csr imm =>
    refine .complete hs (.ite (fun _ => .ite (fun _ => .error _) fun hle => .ok (hs.setBufLen _ ?_)) fun _ =>
      .ite (fun _ => .ok (hs.setLenCfg _)) fun _ => .error _)
    rw [BitVec.toNat_setWidth]
    exact (Nat.mod_le _ _).trans (Nat.not_lt.1 hle)
  | ippfx => exact .complete hs (.bind fun _ _ => .bind fun _ hm => .ok (hs.writeP _ _ (valid_of_maskIP hm)))
  | rpfx =>
    exact .complete hs (.ite (fun _ => .error _) fun hle =>
      .ok (hs.writeQ _ _ (valid_maskRef _ (Nat.not_lt.1 hle))))
  | subinit rs1 l =>
    refine .complete hs (.bind fun (A, k) hA => .ite
      (fun _ => .ok ((hs.setIt _ (s.it.valid_stop hs.it)).setOK _)) fun hfit => .ok ((hs.setIt _ ?_).setOK _))
    obtain ⟨haddr, rfl⟩ := (needP_ok s rs1 A k).1 hA
    simp only [not_or, Nat.not_le, Nat.not_lt] at hfit
    exact valid_of_subinit (hs.p rs1) haddr hfit.1 hfit.2
  | subnext rd => exact answersInv_subnext hs rd
  | stbe | stle => exact .complete hs (ensures_inv_memWrite hs _ _)
  | ast4 | ast16 => exact .complete hs (.bind fun _ _ => .bind fun _ _ => ensures_inv_memWrite hs _ _)
  | encLeg => exact .complete hs (ensures_inv_encodeRecord hs (fun _ _ => Nat.zero_le _) _ _ _ _ _)
  | encCur => exact .complete hs (ensures_inv_encodeRecord hs (fun _ _ => le_rfl) _ _ _ _ _)
  | decLeg =>
    exact .complete hs (.bind fun _ _ => .bind fun _ _ => .ite (fun _ => .ok hs.notOk) fun _ =>
      .ok (hs.writeRecord _ _ _ _ _ (recordLen_le (Nat.zero_le _) _ _)))
  | chkCur =>
    refine .complete hs (.bind fun W _ => ?_)
    cases checkRecord W with
    | none => exact .ok hs.notOk
    | some families => exact .ok ((hs.setOK _).setRLen _ (recordLen_le le_rfl _ _))
  | decCur =>
    refine .complete hs (.bind fun W _ => ?_)
    cases checkRecord W with
    | none => exact .ok hs.notOk
    | some families => exact .ok (hs.writeRecord _ _ _ _ _ (recordLen_le le_rfl _ _))
  | _ => exact .of_frame hs rfl rfl (fun _ => Instr.noConfusion) rfl rfl rfl

/-! ### The invariant through a step -/

/-- Settles O12: after reset the `p` and `q` registers hold length 0 alone, and nothing has faulted. -/
theorem resetMeetsInv : Obligations.ResetMeetsInv where
  buf := Memory.wf_reset
  p r := by rw [readP_reset]; exact rfl
  q r := by rw [readQ_reset]; exact rfl
  it := ⟨rfl, Nat.zero_le _, Bool.noConfusion⟩
  bufLen := Nat.zero_le _
  rlen := Nat.zero_le _
  running _ := ⟨rfl, rfl⟩
  faulted := Bool.noConfusion

theorem issue_answersInv {s : State} (hs : s.Inv) (w : CmdWord) : AnswersInv (issue w s) := by
  intro t ht
  unfold issue at ht
  split at ht
  next => cases ht; exact hs
  next =>
    split at ht
    next i _ => exact exec_answersInv hs i t ht
    next => cases ht; exact hs.enterFault _ w

/-- Settles O13: a command keeps the invariant (`exec_answersInv`), a host write stays inside `BUF`, reset makes the
state of `resetMeetsInv`, and the other interactions write nothing of it. -/
theorem stepKeepsInv : Obligations.StepKeepsInv := by
  intro s t hs ht
  match hp : s.pending with
  | [] =>
    cases (step_of_nothing hp).symm.trans ht
    exact hs
  | .command w :: rest => exact issue_answersInv (hs.taken rest .completed) w t ((step_of_command hp).symm.trans ht)
  | .write k b :: rest =>
    cases (step_of_write hp).symm.trans ht
    exact { hs.taken rest .nothing with buf := s.buf.wf_write k.toNat b hs.buf k.isLt }
  | .read k :: rest =>
    cases (step_of_read hp).symm.trans ht
    exact hs.taken rest _
  | .sample :: rest =>
    cases (step_of_sample hp).symm.trans ht
    exact hs.taken rest _
  | .reset :: rest =>
    cases (step_of_reset hp).symm.trans ht
    exact { resetMeetsInv with }

/-! ### Every step answers -/

theorem exists_complete (i : Instr) (s : State) (r : Except Cause State) : ∃ t, complete i s r = .next t := by
  cases r with
  | ok t => exact ⟨t, rfl⟩
  | error c => exact ⟨_, rfl⟩

/-- Only `SUBNEXT` can stop, and on a valid iterator it does not (44_subnets.md R291). -/
theorem exists_exec {s : State} (h : s.it.valid) (i : Instr) : ∃ t, exec i s = .next t := by
  cases i with
  | nop | li | mov | clc | stc | add | addc | sub | subb | mul | and | or | xor | andn | not | cmp | clz | ctz | popcnt
  | bitlen | bswap | afromu32 | afromu128 | as4in6 | un4in6 | anum4 | anum16 | azero4 | azero16 | amov | rpref
  | rpbits | rpcont | rpcontl => exact ⟨_, rfl⟩
  | subnext rd => exact exists_execSubnext rd h
  | _ => exact exists_complete _ _ _

theorem exists_issue {s : State} (h : s.it.valid) (w : CmdWord) : ∃ t, issue w s = .next t := by
  unfold issue
  split
  next => exact ⟨s, rfl⟩
  next =>
    split
    next i _ => exact exists_exec h i
    next => exact ⟨_, rfl⟩

/-- Settles O14: a command answers (`exists_exec`), and every other interaction does at once. -/
theorem stepAlwaysAnswers : Obligations.StepAlwaysAnswers := by
  intro s hs
  match hp : s.pending with
  | [] => exact ⟨_, step_of_nothing hp⟩
  | .command w :: rest =>
    obtain ⟨t, ht⟩ := exists_issue (hs.taken rest .completed).it w
    exact ⟨t, (step_of_command hp).trans ht⟩
  | .write k b :: rest => exact ⟨_, step_of_write hp⟩
  | .read k :: rest => exact ⟨_, step_of_read hp⟩
  | .sample :: rest => exact ⟨_, step_of_sample hp⟩
  | .reset :: rest => exact ⟨_, step_of_reset hp⟩

end Sys2Proof.Machine
end

section
/-! Which results depend on the flags (10_state.md section 5, R31): from two states that differ in their flags alone a
command checks the same, writes the same, and leaves two states that differ in their flags alone. `ADDC`, `SUBB` and
`CSRR` of `STATUS` are the commands that read a flag. -/

namespace Sys2Proof.Machine

/-- The state with other flags. -/
def reflag (s : State) (c t ok : Bool) (cc : CmpResult) : State := { s with c := c, t := t, ok := ok, cc := cc }

/-- Of two runs, a flag is written the same in both or kept in each. -/
def SameFlag {α : Type} (old old' new new' : α) : Prop := new = new' ∨ (new = old ∧ new' = old')

/-- The states `u` and `u'` left from `s` and `s'` differ in their flags alone, and in each flag only as `s` and `s'`
do. -/
structure SameEffect (s s' u u' : State) : Prop where
  rest : u' = reflag u u'.c u'.t u'.ok u'.cc
  c : SameFlag s.c s'.c u.c u'.c
  t : SameFlag s.t s'.t u.t u'.t
  ok : SameFlag s.ok s'.ok u.ok u'.ok
  cc : SameFlag s.cc s'.cc u.cc u'.cc

namespace SameEffect

variable {s s' u u' : State}

theorem refl (s : State) (c t ok : Bool) (cc : CmpResult) :
    SameEffect s (reflag s c t ok cc) s (reflag s c t ok cc) :=
  ⟨rfl, .inr ⟨rfl, rfl⟩, .inr ⟨rfl, rfl⟩, .inr ⟨rfl, rfl⟩, .inr ⟨rfl, rfl⟩⟩

/-- An update that neither reads nor writes a flag. -/
theorem map {f : State → State} (h : SameEffect s s' u u')
    (hf : ∀ w c t ok cc, f (reflag w c t ok cc) = reflag (f w) c t ok cc) : SameEffect s s' (f u) (f u') := by
  have keeps (w : State) : f w = reflag (f w) w.c w.t w.ok w.cc := hf w w.c w.t w.ok w.cc
  obtain ⟨rest, hc, ht, hok, hcc⟩ := h
  refine ⟨?rest, ?c, ?t, ?ok, ?cc⟩
  case rest =>
    rw [rest, hf]
    rfl
  all_goals
    rw [keeps u, keeps u']
    assumption

theorem writeX (h : SameEffect s s' u u') (r : XReg) (v : U128) :
    SameEffect s s' (Machine.writeX u r v) (Machine.writeX u' r v) :=
  h.map (f := (Machine.writeX · r v)) fun _ _ _ _ _ => rfl

theorem writeA (h : SameEffect s s' u u') (r : AReg) (v : IPVal) :
    SameEffect s s' (Machine.writeA u r v) (Machine.writeA u' r v) :=
  h.map (f := (Machine.writeA · r v)) fun _ _ _ _ _ => rfl

theorem writeP (h : SameEffect s s' u u') (r : PReg) (v : IPPfx) :
    SameEffect s s' (Machine.writeP u r v) (Machine.writeP u' r v) :=
  h.map (f := (Machine.writeP · r v)) fun _ _ _ _ _ => rfl

theorem writeQ (h : SameEffect s s' u u') (r : QReg) (v : RefPfx) :
    SameEffect s s' (Machine.writeQ u r v) (Machine.writeQ u' r v) :=
  h.map (f := (Machine.writeQ · r v)) fun _ _ _ _ _ => rfl

theorem setBufLen (h : SameEffect s s' u u') (v : BitVec 9) :
    SameEffect s s' (Machine.setBufLen u v) (Machine.setBufLen u' v) :=
  h.map (f := (Machine.setBufLen · v)) fun _ _ _ _ _ => rfl

theorem setLenCfg (h : SameEffect s s' u u') (v : BitVec 16) :
    SameEffect s s' (Machine.setLenCfg u v) (Machine.setLenCfg u' v) :=
  h.map (f := (Machine.setLenCfg · v)) fun _ _ _ _ _ => rfl

theorem setRLen (h : SameEffect s s' u u') (n : Nat) :
    SameEffect s s' (Machine.setRLen u n) (Machine.setRLen u' n) :=
  h.map (f := (Machine.setRLen · n)) fun _ _ _ _ _ => rfl

theorem setIt (h : SameEffect s s' u u') (it : Iter) :
    SameEffect s s' (Machine.setIt u it) (Machine.setIt u' it) :=
  h.map (f := (Machine.setIt · it)) fun _ _ _ _ _ => rfl

theorem setBuf (h : SameEffect s s' u u') (m : Memory) :
    SameEffect s s' (Machine.setBuf u m) (Machine.setBuf u' m) :=
  h.map (f := (Machine.setBuf · m)) fun _ _ _ _ _ => rfl

theorem enterFault (h : SameEffect s s' u u') (cause : Cause) (w : CmdWord) :
    SameEffect s s' (Machine.enterFault u cause w) (Machine.enterFault u' cause w) :=
  h.map (f := (Machine.enterFault · cause w)) fun _ _ _ _ _ => rfl

theorem setC (h : SameEffect s s' u u') (b : Bool) :
    SameEffect s s' (Machine.setC u b) (Machine.setC u' b) :=
  { h with
    rest := (congrArg (Machine.setC · b) h.rest :)
    c := .inl rfl }

theorem setT (h : SameEffect s s' u u') (b : Bool) :
    SameEffect s s' (Machine.setT u b) (Machine.setT u' b) :=
  { h with
    rest := (congrArg (Machine.setT · b) h.rest :)
    t := .inl rfl }

theorem setOK (h : SameEffect s s' u u') (b : Bool) :
    SameEffect s s' (Machine.setOK u b) (Machine.setOK u' b) :=
  { h with
    rest := (congrArg (Machine.setOK · b) h.rest :)
    ok := .inl rfl }

theorem setCC (h : SameEffect s s' u u') (r : CmpResult) :
    SameEffect s s' (Machine.setCC u r) (Machine.setCC u' r) :=
  { h with
    rest := (congrArg (Machine.setCC · r) h.rest :)
    cc := .inl rfl }

theorem notOk (h : SameEffect s s' u u') : SameEffect s s' (Machine.notOk u) (Machine.notOk u') :=
  (h.setOK false).setRLen 0

theorem writeRecord (h : SameEffect s s' u u') (rd : XReg) (rs1 rs2 rs3 : AReg) (r : RecordValues) (L : Nat) :
    SameEffect s s' (Machine.writeRecord u rd rs1 rs2 rs3 r L) (Machine.writeRecord u' rd rs1 rs2 rs3 r L) :=
  (((((h.writeA rs1 _).writeA rs2 _).writeA rs3 _).writeX rd _).setOK true).setRLen L

end SameEffect

/-! ### Checks -/

/-- Two runs of the checks and writes of a command: both raise one cause, or both pass, to the same effect. -/
inductive Alike (s s' : State) : Except Cause State → Except Cause State → Prop where
  | ok {u u' : State} (h : SameEffect s s' u u') : Alike s s' (.ok u) (.ok u')
  | error (cause : Cause) : Alike s s' (.error cause) (.error cause)

namespace Alike

variable {s s' : State}

theorem bind {α : Type} {x : Except Cause α} {f g : α → Except Cause State} (h : ∀ a, Alike s s' (f a) (g a)) :
    Alike s s' (x >>= f) (x >>= g) := by
  cases x with
  | ok a => exact h a
  | error cause => exact .error cause

theorem ite {p : Prop} [Decidable p] {x y x' y' : Except Cause State} (hx : Alike s s' x x')
    (hy : Alike s s' y y') : Alike s s' (if p then x else y) (if p then x' else y') := by
  split
  · exact hx
  · exact hy

end Alike

section Reflagged

variable {s : State} {c t ok : Bool} {cc : CmpResult}

theorem alike_memWrite (k : Nat) (B : List Byte) :
    Alike s (reflag s c t ok cc) (memWrite s k B) (memWrite (reflag s c t ok cc) k B) :=
  .ite (.ok ((SameEffect.refl s c t ok cc).setBuf _)) (.error _)

theorem alike_encodeRecord (header : Family → Family → List Byte) (rd : XReg) (rs1 rs2 rs3 : AReg) (off : Imm8) :
    Alike s (reflag s c t ok cc) (encodeRecord header rd rs1 rs2 rs3 off s)
      (encodeRecord header rd rs1 rs2 rs3 off (reflag s c t ok cc)) := by
  cases h : encodeRecord header rd rs1 rs2 rs3 off s with
  | ok u =>
    obtain ⟨ea, ip, gw, hea, hip, hgw, hlen, hfit, rfl⟩ := (encodeRecord_ok ..).1 h
    rw [(encodeRecord_ok header rd rs1 rs2 rs3 off (reflag s c t ok cc) _).2
      ⟨ea, ip, gw, hea, hip, hgw, hlen, hfit, rfl⟩]
    exact .ok (((SameEffect.refl s c t ok cc).setBuf _).setRLen _)
  | error cause =>
    rw [(encodeRecord_error header rd rs1 rs2 rs3 off (reflag s c t ok cc) cause).2
      ((encodeRecord_error header rd rs1 rs2 rs3 off s cause).1 h)]
    exact .error cause

/-- The scan of `IPCONTL` reads the `p` file alone. -/
theorem scanPrefixes_reflag (v : IPAddr) (mask : Imm16) (is : List Nat) :
    scanPrefixes (reflag s c t ok cc) v mask is = scanPrefixes s v mask is := by
  induction is with
  | nil => rfl
  | cons i is ih =>
    simp only [scanPrefixes, ih]
    rfl

/-- A control register other than `STATUS` shows no flag (10_state.md R33). -/
theorem readCsr_reflag {n : Csr} (h : n ≠ 0) : readCsr (reflag s c t ok cc) n = readCsr s n := by
  unfold readCsr
  rw [if_neg h, if_neg h]
  rfl

end Reflagged

/-! ### Commands -/

/-- Where the first run answers a state, the second does, to the same effect. -/
def SameResult (s s' : State) (r r' : Result) : Prop :=
  ∀ u, r = .next u → ∃ u', r' = .next u' ∧ SameEffect s s' u u'

theorem SameResult.next {s s' u u' : State} (h : SameEffect s s' u u') :
    SameResult s s' (.next u) (.next u') := by
  rintro _ ⟨⟩
  exact ⟨u', rfl, h⟩

theorem SameResult.complete {i : Instr} {s : State} {c t ok : Bool} {cc : CmpResult} {r r' : Except Cause State}
    (h : Alike s (reflag s c t ok cc) r r') :
    SameResult s (reflag s c t ok cc) (complete i s r) (complete i (reflag s c t ok cc) r') := by
  cases h with
  | ok h => exact .next h
  | error cause => exact .next ((SameEffect.refl s c t ok cc).enterFault cause _)

/-! ### The four paths of `SUBNEXT` (44_subnets.md R293) -/

theorem exec_subnext_of_inactive {s : State} (rd : PReg) (h : s.it.active = false) :
    exec (.subnext rd) s = .next (setOK s false) := by
  rw [exec, execSubnext, if_pos h]

theorem exec_subnext_of_exhausted {s : State} (rd : PReg) (h : s.it.active = true)
    (hend : s.it.idx.toNat = 2 ^ s.it.l.toNat) :
    exec (.subnext rd) s = .next (setOK (setIt s { s.it with active := false }) false) := by
  rw [exec, execSubnext, if_neg (by simp [h]), if_pos hend]

theorem exec_subnext_of_child {s : State} (rd : PReg) {pf : IPPfx} (h : s.it.active = true)
    (hmore : s.it.idx.toNat ≠ 2 ^ s.it.l.toNat) (hchild : s.it.nextChild = some pf) :
    exec (.subnext rd) s = .next (setOK (setIt (writeP s rd pf) { s.it with idx := s.it.idx + 1 }) true) := by
  rw [exec, execSubnext, if_neg (by simp [h]), if_neg hmore, hchild]

theorem exec_subnext_of_broken {s : State} (rd : PReg) (h : s.it.active = true)
    (hmore : s.it.idx.toNat ≠ 2 ^ s.it.l.toNat) (hchild : s.it.nextChild = none) :
    exec (.subnext rd) s = .fault .brokenIterator := by
  rw [exec, execSubnext, if_neg (by simp [h]), if_neg hmore, hchild]

theorem sameResult_subnext (rd : PReg) (s : State) (c t ok : Bool) (cc : CmpResult) :
    SameResult s (reflag s c t ok cc) (exec (.subnext rd) s) (exec (.subnext rd) (reflag s c t ok cc)) := by
  have same := SameEffect.refl s c t ok cc
  cases hactive : s.it.active with
  | false =>
    rw [exec_subnext_of_inactive rd hactive, exec_subnext_of_inactive (s := reflag s c t ok cc) rd hactive]
    exact .next (same.setOK false)
  | true =>
    by_cases hend : s.it.idx.toNat = 2 ^ s.it.l.toNat
    · rw [exec_subnext_of_exhausted rd hactive hend,
        exec_subnext_of_exhausted (s := reflag s c t ok cc) rd hactive hend]
      exact .next ((same.setIt _).setOK false)
    · cases hchild : s.it.nextChild with
      | none =>
        rw [exec_subnext_of_broken rd hactive hend hchild]
        rintro u ⟨⟩
      | some pf =>
        rw [exec_subnext_of_child rd hactive hend hchild,
          exec_subnext_of_child (s := reflag s c t ok cc) rd hactive hend hchild]
        exact .next (((same.writeP rd pf).setIt _).setOK true)

/-- Every command but `CSRR` of `STATUS` has the same effect under other flags; `ADDC` and `SUBB` under the same `C`. -/
theorem exec_sameResult (i : Instr) (s : State) (c t ok : Bool) (cc : CmpResult) (hcsrr : ∀ rd, i ≠ .csrr rd 0)
    (hc : (∃ rd rs1 rs2, i = .addc rd rs1 rs2 ∨ i = .subb rd rs1 rs2) → s.c = c) :
    SameResult s (reflag s c t ok cc) (exec i s) (exec i (reflag s c t ok cc)) := by
  have same := SameEffect.refl s c t ok cc
  cases i with
  | nop => exact .next same
  | li | mov | add | sub | mul | and | or | xor | andn | not | clz | ctz | popcnt | bitlen | bswap | rpref | rpbits =>
    exact .next (same.writeX _ _)
  | csrr rd csr =>
    have hcsr : csr ≠ 0 := by rintro rfl; exact hcsrr rd rfl
    show SameResult s _ (complete _ s _) (complete _ _ (readCsr (reflag s c t ok cc) csr >>= _))
    rw [readCsr_reflag hcsr]
    exact .complete (.bind fun _ => .ok (same.writeX _ _))
  | lshi | rshi | lsh | rsh | trunc | ldbe | ldle | atou128 | atou128c | ippbits =>
    exact .complete (.bind fun _ => .ok (same.writeX _ _))
  | atou32 | elen => exact .complete (.bind fun _ => .bind fun _ => .ok (same.writeX _ _))
  | elenof => exact .complete (.bind fun _ => .bind fun _ => .bind fun _ => .ok (same.writeX _ _))
  | abyte => exact .complete (.bind fun _ => .ite (.error _) (.ok (same.writeX _ _)))
  | cvt => exact .complete (.bind fun _ => .ite (.ok ((same.writeX _ _).setOK _)) (.ok (same.setOK _)))
  | afromu32 | afromu128 | as4in6 | un4in6 | anum4 | anum16 | azero4 | azero16 | amov =>
    exact .next (same.writeA _ _)
  | ald4 | ald16 | aor | aand | axor | anot | aadd | abits4 | abits16 | ippaddr =>
    exact .complete (.bind fun _ => .ok (same.writeA _ _))
  | ippfx => exact .complete (.bind fun _ => .bind fun _ => .ok (same.writeP _ _))
  | rpfx => exact .complete (.ite (.error _) (.ok (same.writeQ _ _)))
  | addc rd rs1 rs2 =>
    obtain rfl := hc ⟨rd, rs1, rs2, .inl rfl⟩
    exact .next ((same.writeX _ _).setC _)
  | subb rd rs1 rs2 =>
    obtain rfl := hc ⟨rd, rs1, rs2, .inr rfl⟩
    exact .next ((same.writeX _ _).setC _)
  | clc | stc => exact .next (same.setC _)
  | rpcont | rpcontl => exact .next (same.setT _)
  | bit | is4 | is6 | is4in6 => exact .complete (.bind fun _ => .ok (same.setT _))
  | ipcontl rs1 mask =>
    refine .complete (.bind fun v => ?_)
    rw [scanPrefixes_reflag]
    exact .bind fun _ => .ok (same.setT _)
  | ipcont => exact .complete (.bind fun _ => .bind fun _ => .bind fun _ => .ok (same.setT _))
  | cmp => exact .next (same.setCC _)
  | acmp => exact .complete (.bind fun _ => .bind fun _ => .ok (same.setCC _))
  | csrwi =>
    exact .complete (.ite (.ite (.error _) (.ok (same.setBufLen _))) (.ite (.ok (same.setLenCfg _)) (.error _)))
  | subinit =>
    exact .complete (.bind fun _ => .ite (.ok ((same.setIt _).setOK _)) (.ok ((same.setIt _).setOK _)))
  | subnext rd => exact sameResult_subnext rd s c t ok cc
  | stbe | stle => exact .complete (alike_memWrite _ _)
  | ast4 | ast16 => exact .complete (.bind fun _ => .bind fun _ => alike_memWrite _ _)
  | encLeg | encCur => exact .complete (alike_encodeRecord _ _ _ _ _ _)
  | decLeg =>
    exact .complete (.bind fun _ => .bind fun _ => .ite (.ok same.notOk) (.ok (same.writeRecord _ _ _ _ _ _)))
  | chkCur =>
    refine .complete (.bind fun W => ?_)
    cases checkRecord W with
    | none => exact .ok same.notOk
    | some families => exact .ok ((same.setOK _).setRLen _)
  | decCur =>
    refine .complete (.bind fun W => ?_)
    cases checkRecord W with
    | none => exact .ok same.notOk
    | some families => exact .ok (same.writeRecord _ _ _ _ _ _)

/-! ### The two statements -/

/-- A flag that is the same before is the same after. -/
theorem SameFlag.eq_of_eq {α : Type} {old new new' : α} (h : SameFlag old old new new') : new = new' := by
  rcases h with h | ⟨rfl, rfl⟩
  · exact h
  · rfl

/-- Settles O19: the two states have one `C`, so every command but `CSRR` of `STATUS` has the same effect on both. -/
theorem resultsIgnoreTOkCc : Obligations.ResultsIgnoreTOkCc := by
  intro i s s' t hcsrr hs ht
  have hs' : s' = reflag s s.c s'.t s'.ok s'.cc := hs
  obtain ⟨t', ht', effect⟩ := exec_sameResult i s s.c s'.t s'.ok s'.cc hcsrr (fun _ => rfl) t ht
  refine ⟨t', by rw [hs', ht'], ?_, effect.t, effect.ok, effect.cc⟩
  have hrest := effect.rest
  rwa [← effect.c.eq_of_eq] at hrest

/-- Settles O20: the two states have one `T`, `OK` and `CC`, and the commands that read `C` are left out. -/
theorem onlyAddcAndSubbReadC : Obligations.OnlyAddcAndSubbReadC := by
  intro i s s' t hcsrr haddc hsubb hs ht
  have hs' : s' = reflag s s'.c s.t s.ok s.cc := hs
  have hnone : (∃ rd rs1 rs2, i = .addc rd rs1 rs2 ∨ i = .subb rd rs1 rs2) → s.c = s'.c := by
    rintro ⟨rd, rs1, rs2, h | h⟩
    · exact absurd h (haddc rd rs1 rs2)
    · exact absurd h (hsubb rd rs1 rs2)
  obtain ⟨t', ht', effect⟩ := exec_sameResult i s s'.c s.t s.ok s.cc hcsrr hnone t ht
  refine ⟨t', by rw [hs', ht'], ?_, effect.c⟩
  have hrest := effect.rest
  rwa [← effect.t.eq_of_eq, ← effect.ok.eq_of_eq, ← effect.cc.eq_of_eq] at hrest

end Sys2Proof.Machine
end

section
/-! The system commands (46_system.md): constants, moves, the carry, and the control registers. The first part says
once how a command that writes one piece of state, or that checks and then writes, meets `CompletesWith`. -/

namespace Sys2Proof.Machine

/-! ### Completion -/

section Completion

variable {i : Instr} {s : State} {post : State → Prop}

theorem completes_writeX {rd : XReg} {v : U128} (he : exec i s = .next (writeX s rd v))
    (hp : post (writeX s rd v)) : CompletesWith i s [.x rd] post :=
  .intro _ he hp ((OnlyChanges.refl _ s).writeX rd v (List.mem_singleton_self _))

theorem completes_writeA {rd : AReg} {v : IPVal} (he : exec i s = .next (writeA s rd v))
    (hp : post (writeA s rd v)) : CompletesWith i s [.a rd] post :=
  .intro _ he hp ((OnlyChanges.refl _ s).writeA rd v (List.mem_singleton_self _))

theorem completes_setT {b : Bool} (he : exec i s = .next (setT s b)) (hp : post (setT s b)) :
    CompletesWith i s [.t] post :=
  .intro _ he hp ((OnlyChanges.refl _ s).setT b (List.mem_singleton_self _))

theorem completes_setCC {r : CmpResult} (he : exec i s = .next (setCC s r)) (hp : post (setCC s r)) :
    CompletesWith i s [.cc] post :=
  .intro _ he hp ((OnlyChanges.refl _ s).setCC r (List.mem_singleton_self _))

/-- A command whose check passes goes on with what was checked. -/
theorem exec_of_check {α : Type} {t : State} {x : Except Cause α} {f : α → Except Cause State} {a : α}
    (he : exec i s = complete i s (x >>= f)) (hx : x = .ok a) (hf : f a = .ok t) : exec i s = .next t := by
  rw [he, (bind_ok ..).2 ⟨a, hx, hf⟩, complete_ok]

/-- A command whose first check fails raises its cause. -/
theorem raises_of_check {α : Type} {x : Except Cause α} {f : α → Except Cause State} {c : Cause}
    (he : exec i s = complete i s (x >>= f)) (hx : x = .error c) : Raises i s c :=
  raises_of_error i s c _ he ((bind_error ..).2 (.inl hx))

/-- A command whose first check passes raises what the rest of it raises. -/
theorem raises_of_check_ok {α : Type} {x : Except Cause α} {f : α → Except Cause State} {c : Cause} {a : α}
    (he : exec i s = complete i s (x >>= f)) (hx : x = .ok a) (hf : f a = .error c) : Raises i s c :=
  raises_of_error i s c _ he ((bind_error ..).2 (.inr ⟨a, hx, hf⟩))

end Completion

/-! ### Constants, moves and the carry -/

/-- Settles O22: each command writes its one piece of state outright. -/
theorem constantsMovesCarry : Obligations.ConstantsMovesCarry := by
  intro s rd rs1 imm
  refine ⟨rfl, completesWith_of_exec_writeX rfl ?li, completes_writeX rfl (readX_writeX_same ..),
    .intro _ rfl rfl ((OnlyChanges.refl _ s).setC false (List.mem_singleton_self _)),
    .intro _ rfl rfl ((OnlyChanges.refl _ s).setC true (List.mem_singleton_self _))⟩
  exact BitVec.toNat_setWidth_of_le (by decide)

/-! ### The control registers -/

/-- `CSRR` of a control register that reads as `v` writes `v`. -/
theorem exec_csrr {s : State} {csr : Csr} {v : U128} (rd : XReg) (h : readCsr s csr = .ok v) :
    exec (.csrr rd csr) s = .next (writeX s rd v) :=
  exec_of_check rfl h rfl

/-- A register narrower than 128 bits reads zero-extended. -/
theorem completes_csrr {s : State} {csr : Csr} {w : Nat} {v : BitVec w} (hw : w ≤ 128) (rd : XReg)
    (h : readCsr s csr = .ok (v.setWidth 128)) :
    CompletesWith (.csrr rd csr) s [.x rd] fun t => (readX t rd).toNat = v.toNat :=
  completesWith_of_exec_writeX (exec_csrr rd h) (BitVec.toNat_setWidth_of_le hw)

/-- The bits of `STATUS` (10_state.md R34). -/
theorem statusWord_bits (s : State) :
    (statusWord s).getLsbD 0 = s.c ∧ (statusWord s).getLsbD 1 = s.t ∧ (statusWord s).getLsbD 2 = s.ok ∧
    (statusWord s).extractLsb' 3 2 = s.cc.code ∧ (statusWord s).getLsbD 5 = s.it.active ∧
    (statusWord s).getLsbD 6 = false ∧ (statusWord s).getLsbD 7 = s.fault := by
  unfold statusWord
  generalize s.c = c, s.t = t, s.ok = ok, s.it.active = active, s.fault = fault
  cases s.cc <;> decide +revert

/-- The fields of `ITCFG` (10_state.md R33). -/
theorem toNat_itCfgWord (s : State) : (itCfgWord s).toNat = s.it.l.toNat + 256 * s.it.active.toNat := by
  unfold itCfgWord
  generalize s.it.l = l, s.it.active = active
  decide +revert

/-- Settles O23: the six registers by their widths, `STATUS` bit by bit; `readCsr` answers no other number. -/
theorem controlRegisterRead : Obligations.ControlRegisterRead := by
  intro s rd
  refine ⟨completes_writeX (exec_csrr rd rfl) ?status, completes_csrr (by decide) rd rfl,
    completes_csrr (by decide) rd rfl, completes_csrr (by decide) rd rfl, completes_csrr (by decide) rd rfl,
    completesWith_of_exec_writeX (exec_csrr rd rfl) ?itcfg,
    fun csr h => raises_of_check rfl ((readCsr_error ..).2 ⟨rfl, h⟩)⟩
  case status =>
    obtain ⟨hc, ht, hok, hcc, hact, hzero, hfault⟩ := statusWord_bits s
    have hnum : ((statusWord s).setWidth 128).toNat = (statusWord s).toNat := BitVec.toNat_setWidth_of_le (by decide)
    rw [readX_writeX_same, BitVec.extractLsb'_toNat, hnum, ← BitVec.extractLsb'_toNat]
    simp only [BitVec.getLsbD_setWidth, hc, ht, hok, hcc, hact, hzero, hfault]
    exact ⟨rfl, rfl, rfl, by cases s.cc <;> rfl, rfl, rfl, rfl, (statusWord s).isLt⟩
  case itcfg => rw [BitVec.toNat_setWidth_of_le (by decide), toNat_itCfgWord]

theorem exec_csrwi_bufLen {s : State} {imm : Imm16} (h : imm.toNat ≤ 256) :
    exec (.csrwi 1 imm) s = .next (setBufLen s (imm.setWidth 9)) :=
  (complete_next ..).2 (.inl (by rw [if_pos rfl, if_neg (Nat.not_lt.2 h)]))

theorem toNat_setWidth_bufLen {imm : Imm16} (h : imm.toNat ≤ 256) : (imm.setWidth 9).toNat = imm.toNat := by
  rw [BitVec.toNat_setWidth]
  exact Nat.mod_eq_of_lt (by omega)

/-- Settles O24: `CSRWI` of 1 and of 2 write their registers, and everything else it checks raises `CsrAccess`. -/
theorem controlRegisterWrite : Obligations.ControlRegisterWrite := by
  intro s imm
  refine ⟨fun h => ?bufLen, fun h => ?tooLong, ?lenCfg, fun csr h1 h2 => ?other⟩
  case bufLen =>
    exact .intro _ (exec_csrwi_bufLen h) (toNat_setWidth_bufLen h)
      ((OnlyChanges.refl _ s).setBufLen _ (List.mem_singleton_self _))
  case tooLong => exact raises_of_error _ s _ _ rfl (by rw [if_pos rfl, if_pos h])
  case lenCfg => exact .intro _ rfl rfl ((OnlyChanges.refl _ s).setLenCfg imm (List.mem_singleton_self _))
  case other => exact raises_of_error _ s _ _ rfl (by rw [if_neg h1, if_neg h2])

end Sys2Proof.Machine
end

section
/-! The 128-bit ALU with a carry, bit by bit, and by counts (40_uint128_alu.md sections 2 and 4 to 8). -/

namespace Sys2Proof.Machine

/-! ### Frames one after another -/

theorem OnlyChanges.trans {ps : List Part} {s t u : State} (h : OnlyChanges ps s t) (h' : OnlyChanges ps t u) :
    OnlyChanges ps s u where
  x r hr := (h'.x r hr).trans (h.x r hr)
  a r hr := (h'.a r hr).trans (h.a r hr)
  p r hr := (h'.p r hr).trans (h.p r hr)
  q r hr := (h'.q r hr).trans (h.q r hr)
  c hn := (h'.c hn).trans (h.c hn)
  t hn := (h'.t hn).trans (h.t hn)
  ok hn := (h'.ok hn).trans (h.ok hn)
  cc hn := (h'.cc hn).trans (h.cc hn)
  bufLen hn := (h'.bufLen hn).trans (h.bufLen hn)
  lenCfg hn := (h'.lenCfg hn).trans (h.lenCfg hn)
  rlen hn := (h'.rlen hn).trans (h.rlen hn)
  it hn := (h'.it hn).trans (h.it hn)
  faultRegs hn := by
    obtain ⟨hf, hc, hw⟩ := h.faultRegs hn
    obtain ⟨hf', hc', hw'⟩ := h'.faultRegs hn
    exact ⟨hf'.trans hf, hc'.trans hc, hw'.trans hw⟩
  buf k hk := (h'.buf k hk).trans (h.buf k hk)
  pending := h'.pending.trans h.pending
  reply := h'.reply.trans h.reply

/-- A longer list of parts allows more. -/
theorem OnlyChanges.mono {ps qs : List Part} {s t : State} (h : OnlyChanges ps s t) (hsub : ps ⊆ qs) :
    OnlyChanges qs s t where
  x r hr := h.x r fun hm => hr (hsub hm)
  a r hr := h.a r fun hm => hr (hsub hm)
  p r hr := h.p r fun hm => hr (hsub hm)
  q r hr := h.q r fun hm => hr (hsub hm)
  c hn := h.c fun hm => hn (hsub hm)
  t hn := h.t fun hm => hn (hsub hm)
  ok hn := h.ok fun hm => hn (hsub hm)
  cc hn := h.cc fun hm => hn (hsub hm)
  bufLen hn := h.bufLen fun hm => hn (hsub hm)
  lenCfg hn := h.lenCfg fun hm => hn (hsub hm)
  rlen hn := h.rlen fun hm => hn (hsub hm)
  it hn := h.it fun hm => hn (hsub hm)
  faultRegs hn := h.faultRegs fun hm => hn (hsub hm)
  buf k hk := h.buf k fun hm => hk (hsub hm)
  pending := h.pending
  reply := h.reply

/-! ### Carry and borrow -/

/-- The sum of two words and a carry is exact with the carry out as its bit 128 (R126). -/
theorem addWithCarry_exact (x y : U128) (c : Bool) :
    (addWithCarry x y c).1.toNat + 2 ^ 128 * (addWithCarry x y c).2.toNat = x.toNat + y.toNat + c.toNat := by
  have hx := x.isLt
  have hy := y.isLt
  have hc := c.toNat_le
  simp only [addWithCarry, BitVec.toNat_ofNat]
  by_cases h : 2 ^ 128 ≤ x.toNat + y.toNat + c.toNat
  · rw [decide_eq_true h, Bool.toNat_true]
    omega
  · rw [decide_eq_false h, Bool.toNat_false]
    omega

/-- The difference of two words and a borrow is exact with the borrow out as one more `2^128` (R128). -/
theorem subWithBorrow_exact (x y : U128) (c : Bool) :
    (subWithBorrow x y c).1.toNat + y.toNat + c.toNat = x.toNat + 2 ^ 128 * (subWithBorrow x y c).2.toNat := by
  have hx := x.isLt
  have hy := y.isLt
  have hc := c.toNat_le
  simp only [subWithBorrow, BitVec.toNat_ofInt]
  by_cases h : (x.toNat : Int) - y.toNat - c.toNat < 0
  · rw [decide_eq_true h, Bool.toNat_true]
    omega
  · rw [decide_eq_false h, Bool.toNat_false]
    omega

theorem onlyChanges_writeX_setC (s : State) (rd : XReg) (v : U128) (b : Bool) :
    OnlyChanges [.x rd, .c] s (setC (writeX s rd v) b) :=
  ((OnlyChanges.refl _ s).writeX rd v (by simp)).setC b (by simp)

/-- Settles O26: the register takes the word and `C` the carry or borrow of the two equations above. -/
theorem carryAndBorrowExact : Obligations.CarryAndBorrowExact := by
  intro s rd rs1 rs2
  refine ⟨.intro _ rfl ?_ (onlyChanges_writeX_setC ..), .intro _ rfl ?_ (onlyChanges_writeX_setC ..)⟩
  · rw [readX_setC, readX_writeX_same, setC_c]
    exact addWithCarry_exact ..
  · rw [readX_setC, readX_writeX_same, setC_c]
    exact subWithBorrow_exact ..

/-- `CLC` and an operation on the low and then on the high words, for an operation whose result and flag out are in a
relation to its operands and flag in: the flag out of the low words is the flag in of the high ones. -/
theorem execAll_clc_chain {op : XReg → XReg → XReg → Instr} {rel : (x y c z d : Nat) → Prop}
    (hop : ∀ s rd rs1 rs2, CompletesWith (op rd rs1 rs2) s [.x rd, .c] fun t =>
      rel (readX s rs1).toNat (readX s rs2).toNat s.c.toNat (readX t rd).toNat t.c.toNat)
    (s : State) {lo hi aLo aHi bLo bHi : XReg} (ha : lo ≠ aHi) (hb : lo ≠ bHi) (hne : lo ≠ hi) :
    ∃ t d, execAll [.clc, op lo aLo bLo, op hi aHi bHi] s = .next t ∧
      rel (readX s aLo).toNat (readX s bLo).toNat 0 (readX t lo).toNat d ∧
      rel (readX s aHi).toNat (readX s bHi).toNat d (readX t hi).toNat t.c.toNat ∧
      OnlyChanges [.x lo, .x hi, .c] s t := by
  obtain ⟨u, hu, hlow, frameLow⟩ := hop (setC s false) lo aLo bLo
  obtain ⟨t, ht, hhigh, frameHigh⟩ := hop u hi aHi bHi
  have hx (r : XReg) (h : lo ≠ r) : readX u r = readX s r := frameLow.x r (by simp [h.symm])
  have hlo : readX t lo = readX u lo := frameHigh.x lo (by simp [hne])
  refine ⟨t, u.c.toNat, ?run, ?low, ?high, ?frame⟩
  case run => rw [execAll_cons_of_next _ _ s _ rfl, execAll_cons_of_next _ _ _ _ hu, execAll_cons_of_next _ _ _ _ ht,
    execAll]
  case low => rw [hlo]; exact hlow
  case high => rw [hx aHi ha, hx bHi hb] at hhigh; exact hhigh
  case frame =>
    exact (((OnlyChanges.refl _ s).setC false (by simp)).trans (frameLow.mono (by simp))).trans
      (frameHigh.mono (by simp))

/-- Settles O27: with `rel` the exact sum or difference of O26, the two equations make the one of 256 bits. -/
theorem wideAddAndSubtract : Obligations.WideAddAndSubtract := by
  intro s lo hi aLo aHi bLo bHi ha hb hne
  constructor
  · obtain ⟨t, d, hrun, hlow, hhigh, frame⟩ := execAll_clc_chain (op := .addc)
      (rel := fun x y c z d => z + 2 ^ 128 * d = x + y + c) (fun s rd rs1 rs2 => (carryAndBorrowExact s rd rs1 rs2).1)
      s (aLo := aLo) (bLo := bLo) ha hb hne
    exact ⟨t, hrun, by omega, frame⟩
  · obtain ⟨t, d, hrun, hlow, hhigh, frame⟩ := execAll_clc_chain (op := .subb)
      (rel := fun x y c z d => z + y + c = x + 2 ^ 128 * d) (fun s rd rs1 rs2 => (carryAndBorrowExact s rd rs1 rs2).2)
      s (aLo := aLo) (bLo := bLo) ha hb hne
    exact ⟨t, hrun, by omega, frame⟩

/-! ### Bits and shifts -/

/-- Settles O28: each command writes the word whose bits are those of the statement. -/
theorem bitwiseBits : Obligations.BitwiseBits := by
  intro s rd rs1 rs2
  refine ⟨completes_writeX rfl fun j => ?and, completes_writeX rfl fun j => ?or, completes_writeX rfl fun j => ?xor,
    completes_writeX rfl fun j => ?andn, completesWith_of_exec_writeX rfl BitVec.toNat_not⟩
  all_goals rw [readX_writeX_same]
  case and => exact BitVec.getLsbD_and
  case or => exact BitVec.getLsbD_or
  case xor => exact BitVec.getLsbD_xor
  case andn =>
    rw [BitVec.getLsbD_and, BitVec.getLsbD_not]
    by_cases hj : j < 128
    · simp [hj]
    · simp [BitVec.getLsbD_of_ge _ j (Nat.not_lt.1 hj)]

theorem toNat_shiftLeft_eq (x : U128) (n : Nat) : (x <<< n).toNat = x.toNat * 2 ^ n % 2 ^ 128 := by
  rw [BitVec.toNat_shiftLeft, Nat.shiftLeft_eq]

theorem toNat_ushiftRight_eq (x : U128) (n : Nat) : (x >>> n).toNat = x.toNat / 2 ^ n := by
  rw [BitVec.toNat_ushiftRight, Nat.shiftRight_eq_div_pow]

/-- Settles O29: the amount is one that can be encoded, and a shift is a product or a quotient by a power of two. -/
theorem shiftByImmediate : Obligations.ShiftByImmediate := by
  intro s rd rs1 n hn
  have hlegal : legalShift n = true := decide_eq_true hn
  exact ⟨completesWith_of_exec_writeX (exec_of_legal rfl hlegal rfl) (toNat_shiftLeft_eq ..),
    completesWith_of_exec_writeX (exec_of_legal rfl hlegal rfl) (toNat_ushiftRight_eq ..)⟩

/-- Settles O30: the amount in the register is below 128 and shifts, or raises `ShiftRange`. -/
theorem shiftByRegister : Obligations.ShiftByRegister := by
  intro s rd rs1 rs2 n
  refine ⟨fun hn => ?_, fun hn => ?_⟩
  · have hok : shiftAmount (readX s rs2) = .ok n := (shiftAmount_ok ..).2 ⟨hn, rfl⟩
    exact ⟨completesWith_of_exec_writeX (exec_of_check rfl hok rfl) (toNat_shiftLeft_eq ..),
      completesWith_of_exec_writeX (exec_of_check rfl hok rfl) (toNat_ushiftRight_eq ..)⟩
  · have herr : shiftAmount (readX s rs2) = .error .shiftRange := (shiftAmount_error ..).2 ⟨rfl, hn⟩
    exact ⟨raises_of_check rfl herr, raises_of_check rfl herr⟩

/-! ### Comparison and single bits -/

theorem compare3_eq_iff (x y : U128) :
    (compare3 x y = .eq ↔ x.toNat = y.toNat) ∧ (compare3 x y = .lt ↔ x.toNat < y.toNat) ∧
    (compare3 x y = .gt ↔ y.toNat < x.toNat) := by
  unfold compare3
  split
  next h => simp [h]
  next h =>
    have hne : x.toNat ≠ y.toNat := fun e => h (BitVec.eq_of_toNat_eq e)
    split
    next hlt => simp [hne, hlt, hlt.le]
    next hge => simp [hne, hge]; omega

/-- Settles O31: `CC` takes `compare3`, `T` the bit of the register as a binary digit. -/
theorem compareAndBitTest : Obligations.CompareAndBitTest := by
  intro s rs1 rs2 n x y
  refine ⟨completes_setCC rfl (compare3_eq_iff ..), fun hn => ?_⟩
  have hlegal : legalShift n = true := decide_eq_true hn
  refine completes_setT (exec_of_legal rfl hlegal rfl) ?_
  rw [setT_t, ← BitVec.testBit_toNat, Nat.testBit_eq_decide_div_mod_eq]

/-! ### Counts -/

/-- A register keeps a count of at most 128. -/
theorem toNat_readX_writeX_count (s : State) (rd : XReg) {n : Nat} (hn : n ≤ 128) :
    (readX (writeX s rd (BitVec.ofNat 128 n)) rd).toNat = n := by
  rw [readX_writeX_same, BitVec.toNat_ofNat, Nat.mod_eq_of_lt (by omega)]

theorem highestSetBit_eq_some {v : U128} {k : Nat} (hk : v.getLsbD k = true)
    (habove : ∀ j, k < j → v.getLsbD j = false) : highestSetBit v = some k := by
  have hlt : k < 128 := BitVec.lt_of_getLsbD hk
  rw [highestSetBit, List.find?_eq_some_iff_getElem]
  refine ⟨hk, 127 - k, by simp; omega, by simp; omega, fun j hj => ?_⟩
  simp only [List.getElem_reverse, List.length_range, List.getElem_range]
  rw [habove _ (by omega), Bool.not_false]

theorem highestSetBit_zero : highestSetBit 0 = none := by
  simp [highestSetBit]

theorem lowestSetBit_eq_some {v : U128} {k : Nat} (hk : v.getLsbD k = true)
    (hbelow : ∀ j, j < k → v.getLsbD j = false) : lowestSetBit v = some k := by
  rw [lowestSetBit, List.find?_range_eq_some]
  exact ⟨hk, List.mem_range.2 (BitVec.lt_of_getLsbD hk), fun j hj => by rw [hbelow j hj, Bool.not_false]⟩

theorem lowestSetBit_zero : lowestSetBit 0 = none := by
  simp [lowestSetBit]

theorem highestSetBit_lt {v : U128} {k : Nat} (h : highestSetBit v = some k) : k < 128 := by
  simpa using List.mem_of_find?_eq_some h

theorem lowestSetBit_lt {v : U128} {k : Nat} (h : lowestSetBit v = some k) : k < 128 := by
  simpa using List.mem_of_find?_eq_some h

theorem leadingZeros_le (v : U128) : leadingZeros v ≤ 128 := by
  unfold leadingZeros
  split <;> omega

theorem trailingZeros_le (v : U128) : trailingZeros v ≤ 128 := by
  unfold trailingZeros
  split
  next k hk => exact (lowestSetBit_lt hk).le
  next => exact le_rfl

theorem bitLength_le (v : U128) : bitLength v ≤ 128 := by
  unfold bitLength
  split
  next k hk => exact highestSetBit_lt hk
  next => exact Nat.zero_le _

/-- The numbers below `n` with a property, counted along the list and as a set. -/
theorem countP_range_eq_card (p : Nat → Bool) (n : Nat) :
    (List.range n).countP p = (Finset.univ.filter fun j : Fin n => p j.val = true).card := by
  rw [Finset.card_filter, Fin.sum_univ_eq_sum_range (fun j => if p j = true then 1 else 0)]
  induction n with
  | zero => rfl
  | succ n ih => rw [List.range_succ, List.countP_append, List.countP_singleton, ih, Finset.sum_range_succ]

/-- Settles O32: each count is the model's, from the highest or the lowest set bit found, or from the number of set
bits. -/
theorem bitCounts : Obligations.BitCounts := by
  intro s rd rs1 v
  refine ⟨completes_writeX rfl ?clz, completes_writeX rfl ?ctz, completesWith_of_exec_writeX rfl ?popcnt,
    completes_writeX rfl ?bitlen⟩
  case clz =>
    rw [toNat_readX_writeX_count s rd (leadingZeros_le v)]
    exact ⟨fun h => by rw [h, leadingZeros, highestSetBit_zero],
      fun k hk habove => by rw [leadingZeros, highestSetBit_eq_some hk habove]⟩
  case ctz =>
    rw [toNat_readX_writeX_count s rd (trailingZeros_le v)]
    exact ⟨fun h => by rw [h, trailingZeros, lowestSetBit_zero],
      fun k hk hbelow => by rw [trailingZeros, lowestSetBit_eq_some hk hbelow]⟩
  case popcnt =>
    have hle : popCount v < 2 ^ 128 := (List.countP_le_length.trans_eq List.length_range).trans_lt (by decide)
    rw [BitVec.toNat_ofNat, Nat.mod_eq_of_lt hle]
    exact countP_range_eq_card _ 128
  case bitlen =>
    rw [toNat_readX_writeX_count s rd (bitLength_le v)]
    exact ⟨fun h => by rw [h, bitLength, highestSetBit_zero],
      fun k hk habove => by rw [bitLength, highestSetBit_eq_some hk habove]⟩

/-! ### Conversion -/

/-- Settles O33: the width is one that can be encoded; `CVT` then asks whether the value is below `2^w`. -/
theorem convertAndTruncate : Obligations.ConvertAndTruncate := by
  intro s rd rs1 w hw
  have hlegal := Laws.FieldsRoundTrip.legalWidth_of_wf w hw
  refine ⟨fun hfits => ?fits, fun hbig => ?big, completesWith_of_exec_writeX (exec_of_legal rfl hlegal rfl) ?trunc⟩
  case fits =>
    exact .intro _ (exec_of_legal rfl hlegal (if_pos hfits)) ⟨readX_writeX_same .., rfl⟩
      (((OnlyChanges.refl _ s).writeX rd _ (by simp)).setOK true (by simp))
  case big =>
    exact .intro _ (exec_of_legal rfl hlegal (if_neg (Nat.not_lt.2 hbig))) rfl
      ((OnlyChanges.refl _ s).setOK false (by simp))
  case trunc =>
    rw [BitVec.toNat_ofNat]
    exact Nat.mod_eq_of_lt ((Nat.mod_le _ _).trans_lt (readX s rs1).isLt)

end Sys2Proof.Machine
end

section
/-! The endian converters (41_endian.md): byte `j` of a word in either order, of `BUF` after a load or a store, and of a
swapped word. -/

namespace Sys2Proof.Machine

/-! ### Bytes of a word -/

/-- Byte `j` of `be_n(v)` is eight bits of `v`, counted from the end (00_scope.md R12). -/
theorem getElem_beBytes_toNat {w : Nat} (v : BitVec w) {n j : Nat} (h : j < (beBytes n v.toNat).length) :
    (beBytes n v.toNat)[j] = v.extractLsb' (8 * (n - 1 - j)) 8 :=
  getElem_beBytes n v.toNat j h

/-- Byte `j` of `le_n(v)` is eight bits of `v`. -/
theorem getElem_leBytes_toNat {w : Nat} (v : BitVec w) {n j : Nat} (h : j < (leBytes n v.toNat).length) :
    (leBytes n v.toNat)[j] = v.extractLsb' (8 * j) 8 :=
  getElem_leBytes n v.toNat j h

/-! ### Loads -/

/-- Settles O34: the bytes of the loaded word, in the order of the load, are the bytes read (`beBytes_ofNat_fromBE`,
`leBytes_ofNat_fromLE`). -/
theorem loadsPlaceTheBytes : Obligations.LoadsPlaceTheBytes := by
  intro s rd off
  have hlen : (s.buf.readBytes off.toNat 16).length = 16 := Memory.length_readBytes ..
  have hread (j : Nat) (hj : j < 16) : (s.buf.readBytes off.toNat 16)[j]'(hj.trans_eq hlen.symm) =
      s.buf.read (off.toNat + j) := Memory.getElem_readBytes ..
  refine ⟨fun h => ⟨completes_writeX (exec_ldbe s rd off h) fun j hj => ?be,
    completes_writeX (exec_ldle s rd off h) fun j hj => ?le⟩, fun h => ?range⟩
  case be =>
    have hbe := beBytes_ofNat_fromBE _ hlen
    rw [readX_writeX_same, ← getElem_beBytes_toNat (n := 16) (j := j) _ (by simpa using hj), ← hread j hj]
    simp only [hbe]
  case le =>
    have hle := leBytes_ofNat_fromLE _ hlen
    rw [readX_writeX_same, ← getElem_leBytes_toNat (n := 16) (j := j) _ (by simpa using hj), ← hread j hj]
    simp only [hle]
  case range =>
    have herr : memRead s off.toNat 16 = .error .bufRange := (memRead_error ..).2 ⟨rfl, h⟩
    exact ⟨raises_of_check rfl herr, raises_of_check rfl herr⟩

/-! ### Stores -/

/-- Byte `j` of a sequence just written reads back `j` bytes after its first address. -/
theorem Memory.read_writeBytes_add (m : Memory) (i j : Nat) (B : List Byte) (hw : m.wf)
    (hfit : i + B.length ≤ 256) (hj : j < B.length) : (m.writeBytes i B).read (i + j) = B[j] := by
  rw [m.read_writeBytes i B _ hw hfit, dif_pos ⟨Nat.le_add_right i j, Nat.add_lt_add_left hj i⟩]
  simp only [Nat.add_sub_cancel_left]

/-- A command that stores a byte sequence that fits changes those bytes and nothing else. -/
theorem completes_store {i : Instr} {s : State} {off n : Nat} {B : List Byte} {post : State → Prop}
    (he : exec i s = .next (setBuf s (s.buf.writeBytes off B))) (hn : B.length = n) (hw : s.buf.wf)
    (hfit : off + n ≤ 256) (hp : post (setBuf s (s.buf.writeBytes off B))) :
    CompletesWith i s (bytesAt off n) post := by
  subst hn
  exact .intro _ he hp ((OnlyChanges.refl _ s).setBuf_writeBytes off B hw hfit fun j hj => buf_mem_bytesAt off _ j hj)

/-- Settles O35: what is stored is the bytes of the register in the order of the store. -/
theorem storesPlaceTheBytes : Obligations.StoresPlaceTheBytes := by
  intro s rs1 off hw
  refine ⟨fun h => ⟨completes_store (exec_stbe s rs1 off h) (length_beBytes ..) hw h fun j hj => ?be,
    completes_store (exec_stle s rs1 off h) (length_leBytes ..) hw h fun j hj => ?le⟩, fun h => ⟨?rbe, ?rle⟩⟩
  case be =>
    rw [setBuf_buf, Memory.read_writeBytes_add _ _ _ _ hw (by simpa using h) (by simpa using hj),
      getElem_beBytes_toNat]
  case le =>
    rw [setBuf_buf, Memory.read_writeBytes_add _ _ _ _ hw (by simpa using h) (by simpa using hj),
      getElem_leBytes_toNat]
  case rbe => exact raises_of_error _ s _ _ rfl ((memWrite_error ..).2 ⟨rfl, by rwa [length_beBytes]⟩)
  case rle => exact raises_of_error _ s _ _ rfl ((memWrite_error ..).2 ⟨rfl, by rwa [length_leBytes]⟩)

/-! ### `BSWAP` -/

/-- `BSWAP` of a word (R185). -/
def swapBytes (v : U128) : U128 := BitVec.ofNat 128 (fromLE (beBytes 16 v.toNat))

theorem exec_bswap (s : State) (rd rs1 : XReg) :
    exec (.bswap rd rs1) s = .next (writeX s rd (swapBytes (readX s rs1))) := rfl

/-- A swapped word has in little-endian order the bytes the word has in big-endian order. -/
theorem leBytes_swapBytes (v : U128) : leBytes 16 (swapBytes v).toNat = beBytes 16 v.toNat :=
  leBytes_ofNat_fromLE _ (length_beBytes ..)

theorem extractLsb'_swapBytes (v : U128) {j : Nat} (hj : j < 16) :
    (swapBytes v).extractLsb' (8 * j) 8 = v.extractLsb' (8 * (15 - j)) 8 := by
  rw [← getElem_leBytes_toNat (n := 16) (j := j) _ (by simpa using hj),
    ← getElem_beBytes_toNat (n := 16) (j := j) _ (by simpa using hj)]
  simp only [leBytes_swapBytes]

theorem swapBytes_swapBytes (v : U128) : swapBytes (swapBytes v) = v := by
  have hbytes : beBytes 16 (swapBytes v).toNat = leBytes 16 v.toNat := by
    rw [leBytes_eq_reverse_beBytes 16 v.toNat, ← leBytes_swapBytes v, leBytes_eq_reverse_beBytes, List.reverse_reverse]
  rw [swapBytes, hbytes, fromLE_leBytes, ofNat_toNat_mod_pow]

/-- Settles O38: the bytes of a swapped word (`extractLsb'_swapBytes`), and a word swapped twice. -/
theorem byteSwapReverses : Obligations.ByteSwapReverses := by
  intro s rd rs1
  refine completes_writeX (exec_bswap s rd rs1) ⟨fun j hj => ?_, completes_writeX (exec_bswap _ rd rd) ?_⟩
  · rw [readX_writeX_same, extractLsb'_swapBytes _ hj]
  · rw [readX_writeX_same, readX_writeX_same, swapBytes_swapBytes]

end Sys2Proof.Machine
end

section
/-! Address values (42_ip_value.md): an address by its bytes, and the commands that make, read, map and compare
addresses. -/

namespace Sys2Proof.Machine

/-! ### The bytes of an address -/

/-- `be_n(v)` depends on `v` modulo `2^(8n)` alone. -/
theorem beBytes_mod (n v : Nat) : beBytes n (v % 256 ^ n) = beBytes n v := by
  conv_rhs => rw [← Nat.div_add_mod v (256 ^ n), Nat.mul_comm, beBytes_mul_pow_add]

/-- `be_(m+n)(v)` is the bytes of what is above the low `n` bytes, then the low `n` bytes. -/
theorem beBytes_add (m n v : Nat) : beBytes (m + n) v = beBytes m (v >>> (8 * n)) ++ beBytes n v := by
  induction m with
  | zero => simp [beBytes]
  | succ m ih =>
    rw [Nat.succ_add, beBytes, beBytes, ih, List.cons_append, ← Nat.shiftRight_add,
      show 8 * n + 8 * m = 8 * (m + n) by omega]

theorem pow_256_len (f : Family) : 256 ^ f.len = 2 ^ (8 * f.len) := by
  cases f <;> rfl

/-- The bytes of `ip(n, k)` are `be_n(k)` (42_ip_value.md R200). -/
theorem bytes_ip (f : Family) (k : U128) : (ip f k).bytes = beBytes f.len k.toNat := by
  rw [IPAddr.bytes, ip_len, num_ip, ← pow_256_len, beBytes_mod]

/-- The address made of a byte sequence has these bytes. -/
theorem bytes_ipOfBytes (f : Family) {B : List Byte} (h : B.length = f.len) : (ipOfBytes f B).bytes = B := by
  have hlt : fromBE B < 2 ^ 128 := by
    refine (fromBE_lt B).trans_le ?_
    rw [h, pow_256_len]
    exact Nat.pow_le_pow_right Nat.two_pos (by cases f <;> decide)
  rw [ipOfBytes, bytes_ip, BitVec.toNat_ofNat, Nat.mod_eq_of_lt hlt, ← h, beBytes_fromBE]

/-- The bytes of an address spell its number. -/
theorem fromBE_bytes (v : IPAddr) : fromBE v.bytes = v.num.toNat := by
  rw [IPAddr.bytes, fromBE_beBytes, ← IPAddr.family_len, pow_256_len]
  exact Nat.mod_eq_of_lt v.num_lt

/-- Addresses of one length with the same bytes are the same. -/
theorem IPAddr.eq_of_bytes {u v : IPAddr} (h : u.bytes = v.bytes) : u = v := by
  have hlen : u.len = v.len := by rw [← u.length_bytes, h, v.length_bytes]
  rw [IPAddr.eq_iff_num u v hlen, ← fromBE_bytes, h, fromBE_bytes]

theorem getElem_bytes (v : IPAddr) {j : Nat} (h : j < v.bytes.length) :
    v.bytes[j] = v.num.extractLsb' (8 * (v.len - 1 - j)) 8 :=
  getElem_beBytes_toNat v.num h

theorem holdsBytes_writeA (s : State) (rd : AReg) {v : IPAddr} {B : List Byte} (h : v.bytes = B) :
    HoldsBytes (writeA s rd (.addr v)) rd B :=
  ⟨v, readA_writeA_same .., h⟩

/-- A command that writes one address completes, with that register holding its bytes. -/
theorem completes_writeAddr {i : Instr} {s : State} {rd : AReg} {v : IPAddr} {B : List Byte}
    (he : exec i s = .next (writeA s rd (.addr v))) (h : v.bytes = B) :
    CompletesWith i s [.a rd] fun t => HoldsBytes t rd B :=
  completes_writeA he (holdsBytes_writeA s rd h)

/-! ### Between `BUF` and the `a` file -/

/-- Settles O39: the address made of the bytes read has these bytes. -/
theorem addressLoads : Obligations.AddressLoads := by
  intro s rd off
  have hok (n : Nat) (h : off.toNat + n ≤ 256) : memRead s off.toNat n = .ok (s.buf.readBytes off.toNat n) :=
    (memRead_ok ..).2 ⟨h, rfl⟩
  have herr (n : Nat) (h : 256 < off.toNat + n) : memRead s off.toNat n = .error .bufRange :=
    (memRead_error ..).2 ⟨rfl, h⟩
  have hlen (n : Nat) : (s.buf.readBytes off.toNat n).length = n := Memory.length_readBytes ..
  exact ⟨fun h => completes_writeAddr (exec_of_check rfl (hok 4 h) rfl) (bytes_ipOfBytes .four (hlen 4)),
    fun h => raises_of_check rfl (herr 4 h),
    fun h => completes_writeAddr (exec_of_check rfl (hok 16 h) rfl) (bytes_ipOfBytes .sixteen (hlen 16)),
    fun h => raises_of_check rfl (herr 16 h)⟩

/-- A store of an address of the family the command expects ends in the write of its bytes. -/
theorem bind_needFamily {f : Family} {v : IPAddr} {g : Unit → Except Cause State} (h : v.family = f) :
    (needFamily f v >>= g) = g () := by
  rw [(needFamily_ok f v).2 h]
  rfl

theorem IPAddr.family_of_len {v : IPAddr} {f : Family} (h : v.len = f.len) : v.family = f := by
  cases v <;> cases f <;> simp_all [IPAddr.len, IPAddr.family, Family.len]

section AddressStore

variable {i : Instr} {f : Family} {s : State} {rs1 : AReg} {off : Imm8} {v : IPAddr}
  (he : exec i s = complete i s (needA s rs1 >>= fun v => needFamily f v >>= fun _ => memWrite s off.toNat v.bytes))
  (hv : readA s rs1 = .addr v)
include he hv

theorem addressStore_completes (hw : s.buf.wf) {n : Nat} (hn : f.len = n) (hlen : v.len = n)
    (hfit : off.toNat + n ≤ 256) :
    CompletesWith i s (bytesAt off.toNat n) fun t => t.buf.readBytes off.toNat n = v.bytes := by
  have hbytes : v.bytes.length = n := v.length_bytes.trans hlen
  refine completes_store (exec_of_check he ((needA_ok ..).2 hv) ?_) hbytes hw hfit ?_
  · rw [bind_needFamily (IPAddr.family_of_len (hlen.trans hn.symm))]
    exact (memWrite_ok ..).2 ⟨by rwa [hbytes], rfl⟩
  · subst hbytes
    exact Memory.readBytes_writeBytes _ _ _ hw hfit

theorem addressStore_raises_bufRange {n : Nat} (hn : f.len = n) (hlen : v.len = n) (hover : 256 < off.toNat + n) :
    Raises i s .bufRange := by
  refine raises_of_check_ok he ((needA_ok ..).2 hv) ?_
  rw [bind_needFamily (IPAddr.family_of_len (hlen.trans hn.symm))]
  exact (memWrite_error ..).2 ⟨rfl, by rwa [v.length_bytes, hlen]⟩

theorem addressStore_raises_familyMismatch (hne : v.len ≠ f.len) : Raises i s .familyMismatch := by
  refine raises_of_check_ok he ((needA_ok ..).2 hv) ((bind_error ..).2 (.inl ((needFamily_error ..).2 ⟨rfl, ?_⟩)))
  rintro rfl
  exact hne rfl

end AddressStore

/-- Settles O40: `AST4` and `AST16` are the one store at the two families. -/
theorem addressStores : Obligations.AddressStores := by
  intro s rs1 off v hw hv
  exact ⟨fun hlen h => addressStore_completes rfl hv hw rfl hlen h,
    fun hlen h => addressStore_raises_bufRange (f := .four) rfl hv rfl hlen h,
    fun hlen => addressStore_raises_familyMismatch (f := .four) rfl hv (by rw [hlen]; decide),
    fun hlen h => addressStore_completes rfl hv hw rfl hlen h,
    fun hlen h => addressStore_raises_bufRange (f := .sixteen) rfl hv rfl hlen h,
    fun hlen => addressStore_raises_familyMismatch (f := .sixteen) rfl hv (by rw [hlen]; decide)⟩

/-! ### Addresses from numbers -/

/-- `topmask(W, k)` bit by bit (43_prefix.md R260). -/
theorem getLsbD_topMask {W k : Nat} (hk : k ≤ W) (hW : W ≤ 128) (j : Nat) :
    (topMask W k).getLsbD j = (decide (W - k ≤ j) && decide (j < W)) := by
  rw [← BitVec.testBit_toNat, toNat_topMask W k hk hW, Nat.testBit_mul_two_pow, Nat.testBit_two_pow_sub_one]
  grind

theorem toNat_low32 (x : U128) : ((x.setWidth 32).setWidth 128).toNat = x.toNat % 2 ^ 32 := by
  simp only [BitVec.toNat_setWidth]
  omega

/-- Settles O41: the bytes of `ip(n, k)` for each `k`, and the masks by `topmask`. -/
theorem addressesFromNumbers : Obligations.AddressesFromNumbers := by
  intro s rd rs1 n x
  have hmask (f : Family) (h : n.toNat ≤ 8 * f.len) :
      maskAddr f n = .ok (ip f (topMask (8 * f.len) n.toNat)) := (maskAddr_ok ..).2 ⟨h, rfl⟩
  have herr (f : Family) (h : 8 * f.len < n.toNat) : maskAddr f n = .error .prefixRange :=
    (maskAddr_error ..).2 ⟨rfl, h⟩
  refine ⟨completes_writeAddr (v := ip .four (readX s rs1)) rfl ?afromu32,
    completes_writeAddr (v := ip .sixteen (readX s rs1)) rfl (bytes_ip ..),
    completes_writeAddr rfl ?anum4, completes_writeAddr rfl ?anum16,
    completes_writeAddr rfl (bytes_ip ..), completes_writeAddr rfl (bytes_ip ..),
    fun h => completes_writeA (exec_of_check rfl (hmask .four h) rfl) ⟨_, readA_writeA_same .., fun j hj => ?abits4⟩,
    fun h => raises_of_check rfl (herr .four h),
    fun h => completes_writeA (exec_of_check rfl (hmask .sixteen h) rfl)
      ⟨_, readA_writeA_same .., fun j hj => ?abits16⟩,
    fun h => raises_of_check rfl (herr .sixteen h)⟩
  case afromu32 => exact (bytes_ip ..).trans (beBytes_mod 4 _).symm
  case anum4 => rw [bytes_ip, toNat_low32, Family.len]
  case anum16 => rw [bytes_ip, toNat_low32, Family.len]
  case abits4 =>
    rw [BitVec.getLsbD_setWidth, getLsbD_topMask (W := 8 * Family.four.len) h (by decide)]
    simp [hj, Family.len]
  case abits16 =>
    rw [getLsbD_topMask (W := 8 * Family.sixteen.len) h le_rfl]
    simp [hj, Family.len]

end Sys2Proof.Machine
end

section
/-! Address values, continued (42_ip_value.md sections 4 to 8): mapped addresses, the numbers read from addresses,
logic, addition and comparison, and the trap on a value that is no address. -/

namespace Sys2Proof.Machine

/-! ### Mapped addresses (42_ip_value.md R202) -/

theorem mappedHead_eq : mappedHead = beBytes 12 0xffff := by
  decide

theorem toNat_map16_v4 (n : BitVec 32) : (IPAddr.v4 n).map16.num.toNat = 0xffff * 256 ^ 4 + n.toNat := by
  have hn := n.isLt
  simp only [IPAddr.map16, IPAddr.num, BitVec.toNat_append]
  rw [← Nat.shiftLeft_add_eq_or_of_lt hn, Nat.shiftLeft_eq]
  rfl

theorem bytes_v4 (n : BitVec 32) : (IPAddr.v4 n).bytes = beBytes 4 n.toNat := by
  rw [IPAddr.bytes, IPAddr.num, BitVec.toNat_setWidth_of_le (by decide)]
  rfl

/-- A 4-byte address in mapped form: its bytes after the twelve. -/
theorem bytes_map16_v4 (n : BitVec 32) : (IPAddr.v4 n).map16.bytes = mappedHead ++ (IPAddr.v4 n).bytes := by
  have hhead : (0xffff * 256 ^ 4 + n.toNat) >>> (8 * 4) = 0xffff := by
    have hn := n.isLt
    rw [shiftRight_mul_pow_add, Nat.shiftRight_eq_div_pow]
    omega
  have hbytes : (IPAddr.v4 n).map16.bytes = beBytes (12 + 4) (IPAddr.v4 n).map16.num.toNat := rfl
  rw [hbytes, toNat_map16_v4, beBytes_add, hhead, beBytes_mul_pow_add, mappedHead_eq, bytes_v4]

/-- A 16-byte address as its first twelve bytes and its last four. -/
theorem bytes_v6 (n : U128) : (IPAddr.v6 n).bytes = beBytes 12 (n.toNat >>> 32) ++ beBytes 4 n.toNat :=
  beBytes_add 12 4 n.toNat

/-- The twelve bytes that make a 16-byte address mapped are those of 0xffff. -/
theorem mapped_v6_iff (n : U128) : (IPAddr.v6 n).mapped = true ↔ beBytes 12 (n.toNat >>> 32) = mappedHead := by
  have hn : n.toNat >>> 32 < 256 ^ 12 := by
    have := n.isLt
    rw [Nat.shiftRight_eq_div_pow]
    omega
  have hext : (n.extractLsb' 32 96).toNat = n.toNat >>> 32 := by
    rw [BitVec.extractLsb'_toNat]
    exact Nat.mod_eq_of_lt hn
  rw [IPAddr.mapped, beq_iff_eq, ← BitVec.toNat_inj, hext, mappedHead_eq]
  refine ⟨fun h => by rw [h]; rfl, fun h => ?_⟩
  have hnum := congrArg fromBE h
  rwa [fromBE_beBytes, fromBE_beBytes, Nat.mod_eq_of_lt hn] at hnum

/-- An address is mapped exactly when its first twelve bytes are those of a mapped address. -/
theorem mapped_iff (v : IPAddr) : v.mapped = true ↔ v.bytes.take 12 = mappedHead := by
  cases v with
  | v4 n =>
    refine iff_of_false Bool.false_ne_true fun h => ?_
    have hlen := congrArg List.length h
    rw [List.length_take, IPAddr.length_bytes] at hlen
    exact absurd hlen (show ¬ min 12 4 = 12 by decide)
  | v6 n => rw [mapped_v6_iff, bytes_v6, List.take_left' (length_beBytes ..)]

/-- What `UN4IN6` makes of a mapped address is its last four bytes. -/
theorem bytes_unmap {v : IPAddr} (h : v.mapped = true) : v.unmap.bytes = v.bytes.drop 12 := by
  rw [IPAddr.unmap, if_pos h]
  cases v with
  | v4 n => cases h
  | v6 n =>
    rw [bytes_v6, List.drop_left' (length_beBytes ..)]
    exact bytes_ip .four n

theorem map16_of_len_16 {v : IPAddr} (h : v.len = 16) : v.map16 = v := by
  cases v with
  | v4 n => cases h
  | v6 n => rfl

theorem bytes_map16_of_len_4 {v : IPAddr} (h : v.len = 4) : v.map16.bytes = mappedHead ++ v.bytes := by
  cases v with
  | v4 n => exact bytes_map16_v4 n
  | v6 n => cases h

/-- Settles O42: the three commands copy, map and unmap the value they read. -/
theorem addressCopyAndMap : Obligations.AddressCopyAndMap := by
  intro s rd rs1
  refine ⟨completes_writeA rfl (readA_writeA_same ..),
    completes_writeA rfl ⟨fun h => ?_, fun v h hlen => ⟨v.map16, ?_, bytes_map16_of_len_4 hlen⟩, fun v h hlen => ?_⟩,
    completes_writeA rfl ⟨fun h => ?_, fun v h hhead => ⟨v.unmap, ?_, bytes_unmap ((mapped_iff v).2 hhead)⟩,
      fun v h hhead => ?_⟩⟩
  all_goals rw [readA_writeA_same, h]
  · exact congrArg IPVal.addr (map16_of_len_16 hlen)
  · exact congrArg IPVal.addr (if_neg fun hm => hhead ((mapped_iff v).1 hm))

/-! ### Numbers from addresses -/

/-- The byte `i` places from the end (42_ip_value.md R225). -/
theorem byteFromEnd_eq (v : IPAddr) {i : Nat} (h : i < v.len) : v.byteFromEnd i = v.bytes.reverse.getD i 0 := by
  have hlt : i < (leBytes v.len v.num.toNat).length := by simpa using h
  rw [IPAddr.bytes, ← leBytes_eq_reverse_beBytes, List.getD_eq_getElem _ _ hlt, getElem_leBytes_toNat]
  rfl

/-- Settles O43: the number of an address is the one its bytes spell (`fromBE_bytes`). -/
theorem numbersFromAddresses : Obligations.NumbersFromAddresses := by
  intro s rd rs1 v idx hv
  have hok : needA s rs1 = .ok v := (needA_ok ..).2 hv
  refine ⟨fun hlen => completesWith_of_exec_writeX (exec_of_check rfl hok (bind_needFamily ?_)) (fromBE_bytes v).symm,
    fun hlen => raises_of_check_ok rfl hok ((bind_error ..).2 (.inl ((needFamily_error ..).2 ⟨rfl, ?_⟩))),
    completesWith_of_exec_writeX (exec_of_check rfl hok rfl) ?_,
    completesWith_of_exec_writeX (exec_of_check rfl hok rfl) (fromBE_bytes v).symm,
    fun hidx => completesWith_of_exec_writeX (exec_of_check rfl hok (if_neg (Nat.not_le.2 hidx))) ?_,
    fun hidx => raises_of_check_ok rfl hok (if_pos hidx)⟩
  · exact IPAddr.family_of_len hlen
  · intro hfour
    rw [IPAddr.len, hfour] at hlen
    cases hlen
  · rw [← fromBE_bytes]
    split
    next h => rw [map16_of_len_16 h]
    next h => rw [bytes_map16_of_len_4 (v.len_eq.resolve_right h)]
  · rw [BitVec.toNat_setWidth_of_le (by decide), byteFromEnd_eq v hidx]

/-- Settles O44: two predicates of the length, and `mapped` by the first twelve bytes (`mapped_iff`). -/
theorem addressPredicates : Obligations.AddressPredicates := by
  intro s rs1 v hv
  have hok : needA s rs1 = .ok v := (needA_ok ..).2 hv
  refine ⟨completes_setT (exec_of_check rfl hok rfl) rfl, completes_setT (exec_of_check rfl hok rfl) ?_,
    completes_setT (exec_of_check rfl hok rfl) ?_⟩
  · cases v <;> rfl
  · rw [setT_t, Bool.eq_iff_iff, mapped_iff, decide_eq_true_iff]

/-! ### Logic, addition and comparison -/

/-- An operation on numbers that works bit by bit works byte by byte on the bytes of addresses of one length. -/
theorem bytes_ip_zipWith {op : U128 → U128 → U128} {byteOp : Byte → Byte → Byte}
    (hop : ∀ x y p, (op x y).extractLsb' p 8 = byteOp (x.extractLsb' p 8) (y.extractLsb' p 8)) {u v : IPAddr}
    (h : u.len = v.len) : (ip u.family (op u.num v.num)).bytes = List.zipWith byteOp u.bytes v.bytes := by
  rw [bytes_ip, IPAddr.family_len]
  apply List.ext_getElem
  · simp [h]
  · intro j _ _
    rw [getElem_beBytes_toNat, List.getElem_zipWith, getElem_bytes, getElem_bytes, hop, h]

/-- The complement of a number has the complements of its bytes. -/
theorem bytes_ip_not (v : IPAddr) : (ip v.family (~~~v.num)).bytes = v.bytes.map fun x => 0xff - x := by
  rw [bytes_ip, IPAddr.family_len]
  apply List.ext_getElem
  · simp
  · intro j hj _
    rw [length_beBytes] at hj
    have hle := v.len_le
    rw [getElem_beBytes_toNat, List.getElem_map, getElem_bytes]
    have hnot (x : Byte) : 0xff - x = ~~~x := BitVec.allOnes_sub_eq_not x
    rw [hnot]
    apply BitVec.eq_of_getLsbD_eq
    intro i hi
    have hlt : 8 * (v.len - 1 - j) + i < 128 := by omega
    simp [hi, hlt]

/-- A binary address command on two addresses of one length writes what it makes of their numbers. -/
theorem completes_pair {i : Instr} {s : State} {rd rs1 rs2 : AReg} {u v w : IPAddr} {B : List Byte}
    {f : IPAddr × IPAddr → Except Cause State} (he : exec i s = complete i s (needPair s rs1 rs2 >>= f))
    (hu : readA s rs1 = .addr u) (hv : readA s rs2 = .addr v) (hlen : u.len = v.len)
    (hf : f (u, v) = .ok (writeA s rd (.addr w))) (hB : w.bytes = B) :
    CompletesWith i s [.a rd] fun t => HoldsBytes t rd B :=
  completes_writeAddr (exec_of_check he ((needPair_ok ..).2 ⟨hu, hv, hlen⟩) hf) hB

/-- Settles O45: the bytes of what each command makes of the two numbers. -/
theorem addressLogicAndAdd : Obligations.AddressLogicAndAdd := by
  intro s rd rs1 rs2 u v hu hv
  refine ⟨fun hlen => ⟨completes_pair rfl hu hv hlen rfl (bytes_ip_zipWith (fun _ _ _ => BitVec.extractLsb'_or) hlen),
    completes_pair rfl hu hv hlen rfl (bytes_ip_zipWith (fun _ _ _ => BitVec.extractLsb'_and) hlen),
    completes_pair rfl hu hv hlen rfl (bytes_ip_zipWith (fun _ _ _ => BitVec.extractLsb'_xor) hlen),
    completes_pair rfl hu hv hlen rfl ?add⟩, fun hne => ?mismatch,
    completes_writeAddr (exec_of_check rfl ((needA_ok ..).2 hu) rfl) (bytes_ip_not u)⟩
  case add =>
    rw [bytes_ip, fromBE_bytes, fromBE_bytes, ← IPAddr.family_len, ← pow_256_len, beBytes_mod, BitVec.toNat_add]
    cases u
    · exact (beBytes_mod 4 _).symm.trans (by rw [Nat.mod_mod_of_dvd _ (by decide)]; exact beBytes_mod 4 _)
    · exact beBytes_mod 16 _
  case mismatch =>
    have herr : needPair s rs1 rs2 = .error .lengthMismatch := (needPair_error ..).2 (.inr ⟨rfl, u, v, hu, hv, hne⟩)
    exact ⟨raises_of_check rfl herr, raises_of_check rfl herr, raises_of_check rfl herr, raises_of_check rfl herr⟩

/-- The order of addresses: by length, then by number (42_ip_value.md R224). -/
theorem compareAddr_iff (u v : IPAddr) :
    (compareAddr u v = .eq ↔ u = v) ∧
    (compareAddr u v = .lt ↔ u.len < v.len ∨ (u.len = v.len ∧ u.num.toNat < v.num.toNat)) ∧
    (compareAddr u v = .gt ↔ v.len < u.len ∨ (u.len = v.len ∧ v.num.toNat < u.num.toNat)) := by
  unfold compareAddr
  by_cases hlen : u.len = v.len
  · obtain ⟨heq, hlt, hgt⟩ := compare3_eq_iff u.num v.num
    rw [if_pos hlen, heq, hlt, hgt, IPAddr.eq_iff_num u v hlen]
    simp [hlen]
  · have hne : u ≠ v := fun h => hlen (h ▸ rfl)
    rw [if_neg hlen]
    rcases u.len_eq with hu | hu
    · have hv : v.len = 16 := v.len_eq.resolve_left fun hv => hlen (hu.trans hv.symm)
      simp [hne, hu, hv]
    · have hv : v.len = 4 := v.len_eq.resolve_right fun hv => hlen (hu.trans hv.symm)
      simp [hne, hu, hv]

/-- Settles O46: `CC` takes `compareAddr`, and the number of an address is the one its bytes spell. -/
theorem addressCompare : Obligations.AddressCompare := by
  intro s rs1 rs2 u v hu hv
  refine completes_setCC (exec_of_check rfl ((needA_ok ..).2 hu) ((bind_ok ..).2 ⟨v, (needA_ok ..).2 hv, rfl⟩)) ?_
  rw [setCC_cc, fromBE_bytes, fromBE_bytes]
  exact compareAddr_iff u v

/-! ### The trap on `Uninit` (42_ip_value.md R201, 10_state.md R27) -/

/-- Of two registers read one after the other either one traps. -/
theorem needA_needA_error {s : State} {r1 r2 : AReg} {g : IPAddr → IPAddr → Except Cause State}
    (h : readA s r1 = .uninit ∨ readA s r2 = .uninit) :
    (needA s r1 >>= fun u => needA s r2 >>= g u) = .error .uninitIP := by
  refine (bind_error ..).2 ?_
  cases h1 : readA s r1 with
  | uninit => exact .inl ((needA_error ..).2 ⟨rfl, h1⟩)
  | addr u =>
    have h2 : readA s r2 = .uninit := h.resolve_left (by simp [h1])
    exact .inr ⟨u, (needA_ok ..).2 h1, (bind_error ..).2 (.inl ((needA_error ..).2 ⟨rfl, h2⟩))⟩

/-- Of a `p` register and an `a` register read after it either one traps. -/
theorem needP_needA_error {s : State} {r1 : PReg} {r2 : AReg} {g : IPAddr × Nat → IPAddr → Except Cause State}
    (h : (readP s r1).addr = .uninit ∨ readA s r2 = .uninit) :
    (needP s r1 >>= fun A => needA s r2 >>= g A) = .error .uninitIP := by
  refine (bind_error ..).2 ?_
  cases h1 : (readP s r1).addr with
  | uninit => exact .inl ((needP_error ..).2 ⟨rfl, h1⟩)
  | addr A =>
    have h2 : readA s r2 = .uninit := h.resolve_left (by simp [h1])
    exact .inr ⟨_, (needP_ok ..).2 ⟨h1, rfl⟩, (bind_error ..).2 (.inl ((needA_error ..).2 ⟨rfl, h2⟩))⟩

/-- One of two registers is the one that holds `Uninit`. -/
theorem uninit_of_mem_pair {s : State} {r r1 r2 : AReg} (hr : r ∈ [r1, r2]) (hu : readA s r = .uninit) :
    readA s r1 = .uninit ∨ readA s r2 = .uninit := by
  rcases List.mem_pair.1 hr with rfl | rfl
  · exact .inl hu
  · exact .inr hu

theorem raises_uninitIP_of_addressOperand {i : Instr} {s : State} (hwf : i.wf = true) {r : AReg}
    (hr : r ∈ addressOperands i) (hu : readA s r = .uninit) : Raises i s .uninitIP := by
  cases i with
  | ast4 | ast16 | atou32 | atou128 | atou128c | is4 | is6 | is4in6 | anot | abyte | ippfx | ipcontl =>
    obtain rfl := List.mem_singleton.1 hr
    exact raises_of_check rfl ((needA_error ..).2 ⟨rfl, hu⟩)
  | aor | aand | axor | aadd =>
    exact raises_of_check rfl ((needPair_error ..).2 (.inl ⟨rfl, uninit_of_mem_pair hr hu⟩))
  | acmp => exact raises_of_error _ s _ _ rfl (needA_needA_error (uninit_of_mem_pair hr hu))
  | ipcont =>
    obtain rfl := List.mem_singleton.1 hr
    exact raises_of_error _ s _ _ rfl (needP_needA_error (.inr hu))
  | encLeg | encCur =>
    refine raises_of_error _ s _ _ rfl ((encodeRecord_error ..).2 (.inl ⟨rfl, ?_⟩))
    rcases List.mem_cons.1 hr with rfl | hr
    · exact .inl hu
    · exact .inr (uninit_of_mem_pair hr hu)
  | elenof rd rs1 rs3 fmt =>
    have hlegal := Laws.FieldsRoundTrip.legalFormat_of_wf fmt (of_decide_eq_true hwf)
    exact raises_of_check_ok rfl ((needLegal_ok _).2 hlegal) (needA_needA_error (uninit_of_mem_pair hr hu))
  | _ => cases hr

theorem raises_uninitIP_of_prefixOperand {i : Instr} {s : State} {r : PReg} (hr : prefixOperand i = some r)
    (hu : (readP s r).addr = .uninit) : Raises i s .uninitIP := by
  cases i with
  | ippaddr | ippbits | subinit =>
    cases hr
    exact raises_of_check rfl ((needP_error ..).2 ⟨rfl, hu⟩)
  | ipcont =>
    cases hr
    exact raises_of_error _ s _ _ rfl (needP_needA_error (.inl hu))
  | _ => cases hr

/-- Settles O47: the operands are read before anything else that can fail but the check of an immediate, which a
well-formed command passes. -/
theorem uninitOperandsTrap : Obligations.UninitOperandsTrap := by
  rintro i s hwf (⟨r, hr, hu⟩ | ⟨r, hr, hu⟩)
  · exact raises_uninitIP_of_addressOperand hwf hr hu
  · exact raises_uninitIP_of_prefixOperand hr hu

end Sys2Proof.Machine
end

section
/-! Prefixes (43_prefix.md): masking and containment by the bits of the number, for addresses and for Refs, and the scan
of a list of prefixes. -/

namespace Sys2Proof.Machine

/-! ### Masking by bits -/

/-- A number below `2^W` has no bit from `W` on. -/
theorem getLsbD_of_lt_two_pow {x : U128} {W j : Nat} (hx : x.toNat < 2 ^ W) (hj : W ≤ j) : x.getLsbD j = false := by
  rw [← BitVec.testBit_toNat]
  exact Nat.testBit_lt_two_pow (hx.trans_le (Nat.pow_le_pow_right Nat.two_pos hj))

/-- A number whose low `n` bits are zero has none of them set. -/
theorem getLsbD_of_mod_two_pow {x : U128} {n j : Nat} (hx : x.toNat % 2 ^ n = 0) (hj : j < n) :
    x.getLsbD j = false := by
  have hbit := Nat.testBit_mod_two_pow x.toNat n j
  rw [hx, Nat.zero_testBit, BitVec.testBit_toNat, decide_eq_true hj, Bool.true_and] at hbit
  exact hbit.symm

/-- A masked number is `a`, of which only the top `k` of `W` bits can be set, when the two agree in these bits. -/
theorem and_topMask_eq_iff {x a : U128} {W k : Nat} (hk : k ≤ W) (hW : W ≤ 128) (ha : a.toNat < 2 ^ W)
    (hlow : a.toNat % 2 ^ (W - k) = 0) :
    x &&& topMask W k = a ↔ ∀ j, W - k ≤ j → j < W → a.getLsbD j = x.getLsbD j := by
  constructor
  · rintro rfl j hj hjW
    simp [getLsbD_topMask hk hW, hj, hjW]
  · intro h
    apply BitVec.eq_of_getLsbD_eq
    intro j _
    rw [BitVec.getLsbD_and, getLsbD_topMask hk hW]
    by_cases hlo : W - k ≤ j
    · by_cases hhi : j < W
      · simp [hlo, hhi, h j hlo hhi]
      · simp [hhi, getLsbD_of_lt_two_pow ha (Nat.not_lt.1 hhi)]
    · simp [hlo, getLsbD_of_mod_two_pow hlow (Nat.not_le.1 hlo)]

theorem getLsbD_num_ip (f : Family) (k : U128) (j : Nat) :
    (ip f k).num.getLsbD j = (decide (j < 8 * f.len) && k.getLsbD j) := by
  rw [← BitVec.testBit_toNat, num_ip, Nat.testBit_mod_two_pow, BitVec.testBit_toNat]

/-- Settles O48: the bits of a masked address, and the two parts of a `p` register. -/
theorem prefixFactoryAndAccessors : Obligations.PrefixFactoryAndAccessors := by
  refine ⟨fun s rd rs1 bits v hv => ?_, fun s ad xd rs1 A hA => ?_⟩
  · have hok : needA s rs1 = .ok v := (needA_ok ..).2 hv
    refine ⟨fun hle => ?_, fun hlt => raises_of_check_ok rfl hok
      ((bind_error ..).2 (.inl ((maskIP_error ..).2 ⟨rfl, hlt⟩)))⟩
    have hmask : maskIP v bits.toNat = .ok (ip v.family (v.num &&& topMask (8 * v.len) bits.toNat)) :=
      (maskIP_ok ..).2 ⟨hle, rfl⟩
    refine .intro _ (exec_of_check rfl hok ((bind_ok ..).2 ⟨_, hmask, rfl⟩)) ?_
      ((OnlyChanges.refl _ s).writeP rd _ (List.mem_singleton_self _))
    rw [readP_writeP_same]
    refine ⟨Nat.mod_eq_of_lt (by have := v.len_le; omega), _, rfl, ip_family .., fun j => ?_⟩
    rw [getLsbD_num_ip, IPAddr.family_len, BitVec.getLsbD_and, getLsbD_topMask hle v.len_le]
    by_cases hj : j < 8 * v.len
    · simp [hj, Bool.and_comm]
    · simp [hj, getLsbD_of_lt_two_pow v.num_lt (Nat.not_lt.1 hj)]
  · have hok : needP s rs1 = .ok (A, (readP s rs1).bits.val) := (needP_ok ..).2 ⟨hA, rfl⟩
    refine ⟨completes_writeA (exec_of_check rfl hok rfl) (readA_writeA_same ..),
      completesWith_of_exec_writeX (exec_of_check rfl hok rfl) ?_⟩
    have hlt := (readP s rs1).bits.isLt
    rw [BitVec.toNat_ofNat, Nat.mod_eq_of_lt (by omega)]

/-! ### Containment -/

/-- Containment in a masked `p` value is agreement in length and in the top bits (43_prefix.md R260). -/
theorem maskedIP_eq_iff {A v : IPAddr} {k : Fin 129} (hA : IPPfx.valid { addr := .addr A, bits := k })
    (hk : k.val ≤ 8 * v.len) :
    ip v.family (v.num &&& topMask (8 * v.len) k.val) = A ↔ TopBitsAgree k.val A v := by
  have hnum : (ip v.family (v.num &&& topMask (8 * v.len) k.val)).num = v.num &&& topMask (8 * v.len) k.val := by
    apply BitVec.eq_of_getLsbD_eq
    intro j _
    rw [getLsbD_num_ip, IPAddr.family_len, BitVec.getLsbD_and]
    by_cases hj : j < 8 * v.len
    · simp [hj]
    · simp [hj, getLsbD_of_lt_two_pow v.num_lt (Nat.not_lt.1 hj)]
  obtain ⟨_, hlow⟩ := hA
  constructor
  · intro h
    have hfamily : A.family = v.family := by rw [← h, ip_family]
    have hlen : A.len = v.len := congrArg Family.len hfamily
    exact ⟨hfamily, (and_topMask_eq_iff hk v.len_le (hlen ▸ A.num_lt) (hlen ▸ hlow)).1 (by rw [← hnum, h])⟩
  · rintro ⟨hfamily, hbits⟩
    have hlen : A.len = v.len := congrArg Family.len hfamily
    rw [(and_topMask_eq_iff hk v.len_le (hlen ▸ A.num_lt) (hlen ▸ hlow)).2 hbits, ← hfamily, ip_num]

section Entry

variable {s : State} {v : IPAddr} {r : PReg}

/-- What a `p` register holds, where it holds an address. -/
theorem needP_of_addr {A : IPAddr} (hA : (readP s r).addr = .addr A) :
    needP s r = .ok (A, (readP s r).bits.val) := (needP_ok ..).2 ⟨hA, rfl⟩

theorem valid_of_addr {A : IPAddr} (hvalid : (readP s r).valid) (hA : (readP s r).addr = .addr A) :
    IPPfx.valid { addr := .addr A, bits := (readP s r).bits } := by
  rw [← hA]
  exact hvalid

theorem containsIP_of_entryContains (hvalid : (readP s r).valid) (h : EntryContains s v r) :
    ∃ A, needP s r = .ok (A, (readP s r).bits.val) ∧ containsIP A (readP s r).bits.val v = .ok true := by
  obtain ⟨A, hA, hk, hagree⟩ := h
  refine ⟨A, needP_of_addr hA, (containsIP_ok ..).2 ⟨hk, ?_⟩⟩
  exact (decide_eq_true ((maskedIP_eq_iff (valid_of_addr hvalid hA) hk).2 hagree)).symm

theorem containsIP_of_entryMisses (hvalid : (readP s r).valid) (h : EntryMisses s v r) :
    ∃ A, needP s r = .ok (A, (readP s r).bits.val) ∧ containsIP A (readP s r).bits.val v = .ok false := by
  obtain ⟨A, hA, hk, hdiffer⟩ := h
  refine ⟨A, needP_of_addr hA, (containsIP_ok ..).2 ⟨hk, ?_⟩⟩
  exact (decide_eq_false fun e => hdiffer ((maskedIP_eq_iff (valid_of_addr hvalid hA) hk).1 e)).symm

/-- An entry that raises does so when the register is read, or when the address is masked. -/
theorem error_of_entryRaises {cause : Cause} (h : EntryRaises s v r cause) :
    needP s r = .error cause ∨
      ∃ A, needP s r = .ok (A, (readP s r).bits.val) ∧ containsIP A (readP s r).bits.val v = .error cause := by
  rcases h with ⟨hu, rfl⟩ | ⟨A, hA, hlt, rfl⟩
  · exact .inl ((needP_error ..).2 ⟨rfl, hu⟩)
  · exact .inr ⟨A, needP_of_addr hA, (containsIP_error ..).2 ⟨rfl, hlt⟩⟩

end Entry

/-- Settles O49: the entry is tested after the address is read, and the test is that of the three lemmas above. -/
theorem prefixContainment : Obligations.PrefixContainment := by
  intro s rs1 rs2 v hvalid hv
  have hok : needA s rs2 = .ok v := (needA_ok ..).2 hv
  have htest (b : Bool) (h : ∃ A, needP s rs1 = .ok (A, (readP s rs1).bits.val) ∧
      containsIP A (readP s rs1).bits.val v = .ok b) : exec (.ipcont rs1 rs2) s = .next (setT s b) := by
    obtain ⟨A, hA, hb⟩ := h
    exact exec_of_check rfl hA ((bind_ok ..).2 ⟨v, hok, (bind_ok ..).2 ⟨b, hb, rfl⟩⟩)
  refine ⟨fun h => completes_setT (htest true (containsIP_of_entryContains hvalid h)) rfl,
    fun h => completes_setT (htest false (containsIP_of_entryMisses hvalid h)) rfl, fun cause h => ?_⟩
  rcases error_of_entryRaises h with herr | ⟨A, hA, herr⟩
  · exact raises_of_check rfl herr
  · exact raises_of_check_ok rfl hA ((bind_error ..).2 (.inr ⟨v, hok, (bind_error ..).2 (.inl herr)⟩))

/-! ### The scan of `IPCONTL` -/

section Scan

variable {s : State} {v : IPAddr} {mask : Imm16} {i : Nat} (rest : List Nat)

/-- A selected entry is tested, and the scan goes on where it misses. -/
theorem scanPrefixes_of_selected (h : mask.getLsbD i = true) :
    scanPrefixes s v mask (i :: rest) = (do
      let (A, k) ← needP s (BitVec.ofNat 4 i)
      let hit ← containsIP A k v
      if hit then return true else scanPrefixes s v mask rest) := by
  rw [scanPrefixes, if_pos h]

theorem scanPrefixes_of_contains (hvalid : (readP s (BitVec.ofNat 4 i)).valid) (hsel : mask.getLsbD i = true)
    (h : EntryContains s v (BitVec.ofNat 4 i)) : scanPrefixes s v mask (i :: rest) = .ok true := by
  obtain ⟨A, hA, hb⟩ := containsIP_of_entryContains hvalid h
  rw [scanPrefixes_of_selected rest hsel]
  exact (bind_ok ..).2 ⟨_, hA, (bind_ok ..).2 ⟨_, hb, rfl⟩⟩

theorem scanPrefixes_of_raises {cause : Cause} (hsel : mask.getLsbD i = true)
    (h : EntryRaises s v (BitVec.ofNat 4 i) cause) : scanPrefixes s v mask (i :: rest) = .error cause := by
  rw [scanPrefixes_of_selected rest hsel]
  rcases error_of_entryRaises h with herr | ⟨A, hA, herr⟩
  · exact (bind_error ..).2 (.inl herr)
  · exact (bind_error ..).2 (.inr ⟨_, hA, (bind_error ..).2 (.inl herr)⟩)

/-- An entry that is not selected, or that misses, is passed over. -/
theorem scanPrefixes_of_misses (hvalid : (readP s (BitVec.ofNat 4 i)).valid)
    (h : mask.getLsbD i = true → EntryMisses s v (BitVec.ofNat 4 i)) :
    scanPrefixes s v mask (i :: rest) = scanPrefixes s v mask rest := by
  by_cases hsel : mask.getLsbD i = true
  · obtain ⟨A, hA, hb⟩ := containsIP_of_entryMisses hvalid (h hsel)
    rw [scanPrefixes_of_selected rest hsel, hA]
    show (containsIP A (readP s (BitVec.ofNat 4 i)).bits.val v >>= _) = _
    rw [hb]
    rfl
  · rw [scanPrefixes, if_neg hsel]

end Scan

/-- The scan passes over a list of entries of which each selected one misses. -/
theorem scanPrefixes_append_of_misses {s : State} {v : IPAddr} {mask : Imm16} (hvalid : ∀ r, (readP s r).valid)
    (is rest : List Nat) (h : ∀ i ∈ is, mask.getLsbD i = true → EntryMisses s v (BitVec.ofNat 4 i)) :
    scanPrefixes s v mask (is ++ rest) = scanPrefixes s v mask rest := by
  induction is with
  | nil => rfl
  | cons i is ih =>
    rw [List.cons_append, scanPrefixes_of_misses _ (hvalid _) (h i List.mem_cons_self),
      ih fun j hj => h j (List.mem_cons_of_mem i hj)]

/-- The entries from 0 to 15 are those below `k`, then `k`, then the others. -/
theorem range_16_split {k : Nat} (hk : k < 16) :
    List.range 16 = List.range k ++ k :: (List.range 16).drop (k + 1) := by
  conv_lhs => rw [← List.take_append_drop k (List.range 16)]
  rw [List.take_range, Nat.min_eq_left hk.le, List.drop_eq_getElem_cons (by simpa using hk), List.getElem_range]

/-- Settles O50: the scan passes over the entries that miss (`scanPrefixes_append_of_misses`) and ends with the first
that does not. -/
theorem prefixListScan : Obligations.PrefixListScan := by
  intro s rs1 mask v hvalid hv
  have hok : needA s rs1 = .ok v := (needA_ok ..).2 hv
  have hscan (b : Bool) (h : scanPrefixes s v mask (List.range 16) = .ok b) :
      exec (.ipcontl rs1 mask) s = .next (setT s b) := exec_of_check rfl hok ((bind_ok ..).2 ⟨b, h, rfl⟩)
  refine ⟨fun hmiss => completes_setT (hscan false ?_) rfl, fun k hk hsel hmiss => ?_⟩
  · rw [← List.append_nil (List.range 16),
      scanPrefixes_append_of_misses hvalid _ _ fun i hi => hmiss i (List.mem_range.1 hi)]
    rfl
  · have hskip : scanPrefixes s v mask (List.range 16) =
        scanPrefixes s v mask (k :: (List.range 16).drop (k + 1)) := by
      conv_lhs => rw [range_16_split hk]
      exact scanPrefixes_append_of_misses hvalid _ _ fun i hi => hmiss i (List.mem_range.1 hi)
    refine ⟨fun h => completes_setT (hscan true ?_) rfl, fun cause h =>
      raises_of_check_ok rfl hok ((bind_error ..).2 (.inl ?_))⟩
    · rw [hskip, scanPrefixes_of_contains _ (hvalid _) hsel h]
    · rw [hskip, scanPrefixes_of_raises _ hsel h]

/-! ### Ref prefixes -/

/-- Containment in a masked `q` value is agreement in the top bits. -/
theorem containsRef_iff {pf : RefPfx} (h : pf.valid) (r : U128) :
    containsRef pf r = true ↔ RefTopBitsAgree pf r := by
  rw [containsRef, beq_iff_eq]
  exact and_topMask_eq_iff (Nat.lt_succ_iff.1 pf.bits.isLt) le_rfl pf.ref.isLt h

/-- Settles O51: the bits of a masked Ref, the two parts of a `q` register, and containment (`containsRef_iff`). -/
theorem refPrefixes : Obligations.RefPrefixes := by
  intro s qd qs xd xs bits mask
  refine ⟨fun hle => ?make, fun hlt => raises_of_error _ s _ _ rfl (if_pos hlt),
    completes_writeX rfl (readX_writeX_same ..), completesWith_of_exec_writeX rfl ?bits,
    fun hvalid => ⟨completes_setT rfl (containsRef_iff (hvalid qs) _), completes_setT rfl ?list⟩⟩
  case make =>
    have he : exec (.rpfx qd xs bits) s = .next (writeQ s qd
        { ref := maskRef (readX s xs) bits.toNat, bits := Fin.ofNat 129 bits.toNat }) :=
      (complete_next ..).2 (.inl (if_neg (Nat.not_lt.2 hle)))
    refine .intro _ he ?_ ((OnlyChanges.refl _ s).writeQ qd _ (List.mem_singleton_self _))
    rw [readQ_writeQ_same]
    refine ⟨Nat.mod_eq_of_lt (by omega), fun j hj => ?_⟩
    rw [maskRef, BitVec.getLsbD_and, getLsbD_topMask hle le_rfl, decide_eq_true hj, Bool.and_true, Bool.and_comm]
  case bits =>
    have hlt := (readQ s qs).bits.isLt
    rw [BitVec.toNat_ofNat, Nat.mod_eq_of_lt (by omega)]
  case list =>
    simp only [setT_t, List.any_eq_true, List.mem_range, Bool.and_eq_true, containsRef_iff (hvalid _)]

end Sys2Proof.Machine
end

section
/-! The subnet iterator (44_subnets.md): `SUBINIT`, `SUBNEXT`, and a whole enumeration. While an enumeration runs, the
state of the iterator is its base, `l` and the number of children delivered. -/

namespace Sys2Proof.Machine

/-! ### `SUBINIT` -/

/-- The iterator that enumerates the children of a `p` register's value, with `n` of them delivered. -/
def enumeration (pf : IPPfx) (l : Imm8) (n : Nat) : Iter :=
  { active := true, base := pf, l := l.setWidth 6, idx := BitVec.ofNat 64 n }

/-- Six bits hold every `l` that `SUBINIT` accepts. -/
theorem toNat_enumeration_l (pf : IPPfx) {l : Imm8} (hl : l.toNat < 64) (n : Nat) :
    (enumeration pf l n).l.toNat = l.toNat := by
  simp only [enumeration, BitVec.toNat_setWidth]
  omega

/-- The index holds every number of children there can be. -/
theorem toNat_enumeration_idx (pf : IPPfx) {l : Imm8} (hl : l.toNat < 64) {n : Nat} (hn : n ≤ 2 ^ l.toNat) :
    (enumeration pf l n).idx.toNat = n := by
  have hpow : 2 ^ l.toNat ≤ 2 ^ 63 := Nat.pow_le_pow_right Nat.two_pos (by omega)
  rw [enumeration, BitVec.toNat_ofNat]
  exact Nat.mod_eq_of_lt (by omega)

theorem onlyChanges_setIt_setOK (s : State) (it : Iter) (b : Bool) :
    OnlyChanges [.it, .ok] s (setOK (setIt s it) b) :=
  ((OnlyChanges.refl _ s).setIt it (by simp)).setOK b (by simp)

section Subinit

variable {s : State} {rs1 : PReg} {l : Imm8} {A : IPAddr} (hA : (readP s rs1).addr = .addr A)
include hA

theorem exec_subinit_of_fits (hl : l.toNat < 64) (hroom : (readP s rs1).bits.val + l.toNat ≤ 8 * A.len) :
    exec (.subinit rs1 l) s = .next (setOK (setIt s (enumeration (readP s rs1) l 0)) true) :=
  exec_of_check rfl (needP_of_addr hA) (if_neg (by simp only [Config.subnetsLMax]; omega))

theorem exec_subinit_of_not_fits (h : 64 ≤ l.toNat ∨ 8 * A.len < (readP s rs1).bits.val + l.toNat) :
    exec (.subinit rs1 l) s = .next (setOK (setIt s { s.it with active := false }) false) :=
  exec_of_check rfl (needP_of_addr hA) (if_pos h)

end Subinit

/-- Settles O52: the two outcomes of `SUBINIT`. -/
theorem subinitOutcome : Obligations.SubinitOutcome := by
  intro s rs1 l A hA
  exact ⟨fun ⟨hl, hroom⟩ => .intro _ (exec_subinit_of_fits hA hl hroom)
      ⟨rfl, rfl, rfl, toNat_enumeration_l _ hl 0, rfl⟩ (onlyChanges_setIt_setOK ..),
    fun h => .intro _ (exec_subinit_of_not_fits hA h) ⟨rfl, rfl⟩ (onlyChanges_setIt_setOK ..)⟩

/-! ### `SUBNEXT` -/

theorem Iter.nextChild_eq {it : Iter} {A : IPAddr} (hA : it.base.addr = .addr A)
    (hroom : it.base.bits.val + it.l.toNat ≤ 8 * A.len) (hidx : it.idx.toNat ≤ 2 ^ it.l.toNat) :
    it.nextChild = some (child A it.base.bits.val it.l.toNat it.idx.toNat) := by
  rw [nextChild, hA]
  exact if_pos ⟨hroom, hidx⟩

/-- `l` is below 64, so an index below `2^l` goes up by one without wrapping. -/
theorem Iter.toNat_idx_succ {it : Iter} (h : it.idx.toNat < 2 ^ it.l.toNat) :
    (it.idx + 1).toNat = it.idx.toNat + 1 := by
  have hpow : 2 ^ it.l.toNat ≤ 2 ^ 63 := Nat.pow_le_pow_right Nat.two_pos (by have := it.l.isLt; omega)
  rw [BitVec.toNat_add]
  exact Nat.mod_eq_of_lt (by change it.idx.toNat + 1 < 2 ^ 64; omega)

/-- Settles O53: the three paths of `SUBNEXT` on a valid iterator; the child is the one of R291 (`childAddr_num`). -/
theorem subnextOutcome : Obligations.SubnextOutcome := by
  intro s rd hit
  refine ⟨fun hactive => ?inactive, fun hactive hend => ?exhausted, fun A hactive hmore hA => ?child⟩
  case inactive =>
    exact .intro _ (exec_subnext_of_inactive rd hactive) rfl ((OnlyChanges.refl _ s).setOK false (by simp))
  case exhausted =>
    exact .intro _ (exec_subnext_of_exhausted rd hactive hend) ⟨rfl, rfl⟩ (onlyChanges_setIt_setOK ..)
  case child =>
    obtain ⟨A', hA', hroom⟩ := hit.room hactive
    obtain rfl : A' = A := IPVal.addr.inj (hA'.symm.trans hA)
    have hbase : IPPfx.valid { addr := .addr A', bits := s.it.base.bits } := by
      rw [← hA]
      exact hit.base
    have hchild := Iter.nextChild_eq hA hroom hit.idx
    refine .intro _ (exec_subnext_of_child rd hactive hmore.ne hchild) ⟨rfl, rfl, Iter.toNat_idx_succ hmore, ?_⟩
      ((((OnlyChanges.refl _ s).writeP rd _ (by simp)).setIt _ (by simp)).setOK true (by simp))
    rw [readP_setOK, readP_setIt, readP_writeP_same, child_eq]
    exact ⟨childBits_val A' _ _ hroom, _, rfl, ip_family .., childAddr_num hbase hroom hmore⟩

/-! ### A whole enumeration -/

/-- A run of two lists is the run of the second from where the first ends. -/
theorem execAll_append_of_next {is : List Instr} {s t : State} (h : execAll is s = .next t) (js : List Instr) :
    execAll (is ++ js) s = execAll js t := by
  induction is generalizing s with
  | nil => cases h; rfl
  | cons i is ih =>
    rw [execAll] at h
    split at h
    next u hu => rw [List.cons_append, execAll_cons_of_next _ _ _ _ hu, ih h]
    next => cases h
    next => cases h

section Enumeration

variable {s : State} {pf : IPPfx} {A : IPAddr} {l : Imm8} {n : Nat} (hit : s.it = enumeration pf l n)
  (hA : pf.addr = .addr A) (hl : l.toNat < 64) (hroom : pf.bits.val + l.toNat ≤ 8 * A.len)
include hit hA hl hroom

/-- One `SUBNEXT` of an enumeration with children left delivers the next. -/
theorem exec_subnext_enumeration (hn : n < 2 ^ l.toNat) (rd : PReg) :
    exec (.subnext rd) s = .next
      (setOK (setIt (writeP s rd (child A pf.bits.val l.toNat n)) (enumeration pf l (n + 1))) true) := by
  have hbits : s.it.l.toNat = l.toNat := by rw [hit, toNat_enumeration_l pf hl]
  have hidx : s.it.idx.toNat = n := by rw [hit, toNat_enumeration_idx pf hl hn.le]
  have hbase : s.it.base = pf := by rw [hit, enumeration]
  have hchild : s.it.nextChild = some (child A pf.bits.val l.toNat n) := by
    rw [Iter.nextChild_eq (by rw [hbase, hA]) (by rw [hbase, hbits]; exact hroom) (by rw [hidx, hbits]; exact hn.le),
      hbase, hbits, hidx]
  have hnext : ({ s.it with idx := s.it.idx + 1 } : Iter) = enumeration pf l (n + 1) := by
    rw [hit]
    simp only [enumeration, BitVec.ofNat_add]
    rfl
  rw [exec_subnext_of_child rd (by rw [hit, enumeration]) (by rw [hidx, hbits]; exact hn.ne) hchild, hnext]

/-- A row of `SUBNEXT` commands, as many as there are children left at most, leaves the enumeration that much
further. -/
theorem execAll_subnexts (rds : List PReg) (hn : n + rds.length ≤ 2 ^ l.toNat) :
    ∃ t, execAll (rds.map fun r => .subnext r) s = .next t ∧ t.it = enumeration pf l (n + rds.length) := by
  induction rds generalizing s n with
  | nil => exact ⟨s, rfl, hit⟩
  | cons r rds ih =>
    rw [List.length_cons] at hn
    have hr := exec_subnext_enumeration hit hA hl hroom (by omega) r
    obtain ⟨t, ht, htit⟩ := ih (s := setOK (setIt (writeP s r _) (enumeration pf l (n + 1))) true) rfl (by omega)
    refine ⟨t, ?_, ?_⟩
    · rw [List.map_cons, execAll_cons_of_next _ _ _ _ hr, ht]
    · rw [htit, List.length_cons, Nat.add_assoc, Nat.add_comm 1]

end Enumeration

/-- Settles O54: `SUBINIT` starts an enumeration at 0, each `SUBNEXT` delivers a child and takes it one further
(`execAll_subnexts`), and at `2^l` the next one stops the iterator. -/
theorem subnetsEnumerated : Obligations.SubnetsEnumerated := by
  intro s rs1 l A rds rd hA hl hroom
  have hinit := exec_subinit_of_fits hA hl hroom
  have hrun (h : rds.length ≤ 2 ^ l.toNat) :
      ∃ t, execAll (.subinit rs1 l :: rds.map fun r => .subnext r) s = .next t ∧
        t.it = enumeration (readP s rs1) l rds.length := by
    obtain ⟨t, ht, htit⟩ := execAll_subnexts (s := setOK (setIt s (enumeration (readP s rs1) l 0)) true) rfl hA hl
      hroom rds (by omega)
    exact ⟨t, by rw [execAll_cons_of_next _ _ _ _ hinit, ht], by rw [htit, Nat.zero_add]⟩
  refine ⟨fun h => ?more, fun h => ?all⟩
  case more =>
    obtain ⟨t, ht, htit⟩ := hrun h.le
    have hnext := exec_subnext_enumeration htit hA hl hroom h rd
    exact ⟨_, (execAll_append_of_next ht _).trans (execAll_cons_of_next _ _ _ _ hnext), readP_writeP_same .., rfl, rfl,
      toNat_enumeration_idx _ hl h⟩
  case all =>
    obtain ⟨t, ht, htit⟩ := hrun h.le
    have hend : t.it.idx.toNat = 2 ^ t.it.l.toNat := by
      rw [htit, toNat_enumeration_l _ hl, toNat_enumeration_idx _ hl h.le, h]
    exact ⟨t, _, ht, exec_subnext_of_exhausted rd (by rw [htit, enumeration]) hend, rfl, rfl, rfl⟩

end Sys2Proof.Machine
end

section
/-! The record codec (45_addrrec_codec.md): the size of a record, the two decoders, and a record encoded and decoded
again. Both formats slice the same body, so what a decoder leaves is said once. -/

namespace Sys2Proof.Machine

/-! ### Sizes -/

theorem recordLen_eq (header : Nat) (ea gw : Family) :
    recordLen header ea gw = header + 2 * ea.len + gw.len + 16 := rfl

/-- The header of a format has no byte or four. -/
theorem headerLenOf_eq {fmt : Imm8} (h : fmt.toNat < 2) : headerLenOf fmt = 4 * fmt.toNat := by
  have : fmt = 0 ∨ fmt = 1 := by bv_omega
  rcases this with rfl | rfl <;> rfl

/-- A register keeps the size of a record. -/
theorem toNat_recordLen {fmt : Imm8} (h : fmt.toNat < 2) (ea gw : Family) :
    (BitVec.ofNat 128 (recordLen (headerLenOf fmt) ea gw)).toNat = 4 * fmt.toNat + 2 * ea.len + gw.len + 16 := by
  have hle := recordLen_le (header := headerLenOf fmt) (by rw [headerLenOf_eq h]; omega) ea gw
  rw [BitVec.toNat_ofNat, Nat.mod_eq_of_lt (by omega), recordLen_eq, headerLenOf_eq h]

theorem exists_family_len {n : Nat} (h : n = 4 ∨ n = 16) : ∃ f : Family, f.len = n := by
  rcases h with rfl | rfl
  · exact ⟨.four, rfl⟩
  · exact ⟨.sixteen, rfl⟩

theorem Family.len_eq (f : Family) : f.len = 4 ∨ f.len = 16 := by
  cases f
  · exact .inl rfl
  · exact .inr rfl

/-- A length in `LENCFG` that is neither 4 nor 16 raises `BadLength` (45_addrrec_codec.md R312). -/
theorem lens_badLength {s : State}
    (h : ¬ (((s.lenCfg.extractLsb' 0 8).toNat = 4 ∨ (s.lenCfg.extractLsb' 0 8).toNat = 16) ∧
      ((s.lenCfg.extractLsb' 8 8).toNat = 4 ∨ (s.lenCfg.extractLsb' 8 8).toNat = 16))) :
    lens s = .error .badLength := by
  match hlens : lens s with
  | .ok (n, m) =>
    obtain ⟨hn, hm⟩ := (lens_ok s n m).1 hlens
    exact absurd ⟨hn ▸ n.len_eq, hm ▸ m.len_eq⟩ h
  | .error c => rw [((lens_error s c).1 hlens).1]

/-- Settles O56: the sizes of the families in `LENCFG` and of two addresses. -/
theorem recordLengths : Obligations.RecordLengths := by
  intro s rd rs1 rs3 fmt hfmt
  have hlegal : needLegal (legalFormat fmt) = .ok () :=
    (needLegal_ok _).2 (Laws.FieldsRoundTrip.legalFormat_of_wf fmt hfmt)
  refine ⟨⟨fun hn hm => ?_, fun h => raises_of_check_ok rfl hlegal ((bind_error ..).2 (.inl (lens_badLength h)))⟩,
    fun ea gw hea hgw => ?_⟩
  · obtain ⟨n, hn⟩ := exists_family_len hn
    obtain ⟨m, hm⟩ := exists_family_len hm
    rw [← hn, ← hm]
    have hlens : lens s = .ok (n, m) := (lens_ok ..).2 ⟨hn.symm, hm.symm⟩
    exact completesWith_of_exec_writeX (exec_of_check rfl hlegal ((bind_ok ..).2 ⟨_, hlens, rfl⟩))
      (toNat_recordLen hfmt n m)
  · exact completesWith_of_exec_writeX (exec_of_check rfl hlegal
      ((bind_ok ..).2 ⟨ea, (needA_ok ..).2 hea, (bind_ok ..).2 ⟨gw, (needA_ok ..).2 hgw, rfl⟩⟩))
      (toNat_recordLen hfmt ea.family gw.family)

/-! ### What a decoder leaves -/

theorem onlyChanges_writeRecord (s : State) (rd : XReg) (rs1 rs2 rs3 : AReg) (r : RecordValues) (L : Nat) :
    OnlyChanges [.x rd, .a rs1, .a rs2, .a rs3, .ok, .rlen] s (writeRecord s rd rs1 rs2 rs3 r L) :=
  ((((((OnlyChanges.refl _ s).writeA rs1 _ (by simp)).writeA rs2 _ (by simp)).writeA rs3 _ (by simp)).writeX rd _
    (by simp)).setOK true (by simp)).setRLen L (by simp)

/-- A slice of a sequence long enough for it, as an address of that many bytes. -/
theorem bytes_ipOfBytes_slice (f : Family) {W : List Byte} {k : Nat} (h : k + f.len ≤ W.length) :
    (ipOfBytes f ((W.drop k).take f.len)).bytes = (W.drop k).take f.len :=
  bytes_ipOfBytes f (by rw [List.length_take, List.length_drop]; omega)

/-- The record sliced from byte `h` of a window on is the one the statements describe. -/
theorem holdsRecord_writeRecord (s : State) (rd : XReg) (rs1 rs2 rs3 : AReg) {W : List Byte} {h : Nat}
    {ea gw : Family} (L : Nat) (hfit : h + 2 * ea.len + gw.len + 16 ≤ W.length) :
    HoldsRecord (writeRecord s rd rs1 rs2 rs3 (sliceRecord ea gw (W.drop h)) L) rd rs1 rs2 rs3 W h ea.len gw.len := by
  have hdrop (k : Nat) : (W.drop h).drop k = W.drop (h + k) := List.drop_drop ..
  refine ⟨⟨_, by rw [readA_writeRecord, if_pos rfl], ?gw⟩,
    fun h23 => ⟨_, by rw [readA_writeRecord, if_neg h23.symm, if_pos rfl], ?ip⟩,
    fun h12 h13 => ⟨_, by rw [readA_writeRecord, if_neg h13.symm, if_neg h12.symm, if_pos rfl], ?ea⟩, ?ref⟩
  case gw =>
    simp only [sliceRecord, hdrop]
    exact bytes_ipOfBytes_slice gw (by omega)
  case ip =>
    simp only [sliceRecord, hdrop]
    exact bytes_ipOfBytes_slice ea (by omega)
  case ea =>
    simp only [sliceRecord]
    exact bytes_ipOfBytes_slice ea (by omega)
  case ref =>
    rw [readX_writeRecord, if_pos rfl]
    simp only [sliceRecord, hdrop, Config.refLen, ← Nat.add_assoc]
    exact beBytes_ofNat_fromBE _ (by rw [List.length_take, List.length_drop]; omega)

/-! ### The two decoders -/

section Decode

variable {s : State} {off : Imm8} (rd : XReg) (rs1 rs2 rs3 : AReg)

theorem exec_decLeg_short {n m : Family} (hlens : lens s = .ok (n, m)) (hin : off.toNat + s.bufLen.toNat ≤ 256)
    (hshort : s.bufLen.toNat < recordLen 0 n m) : exec (.decLeg rd rs1 rs2 rs3 off) s = .next (notOk s) :=
  exec_of_check rfl hlens ((bind_ok ..).2 ⟨_, (window_ok ..).2 ⟨hin, rfl⟩,
    if_pos (by rwa [Memory.length_readBytes])⟩)

theorem exec_decLeg_record {n m : Family} (hlens : lens s = .ok (n, m)) (hin : off.toNat + s.bufLen.toNat ≤ 256)
    (hfit : recordLen 0 n m ≤ s.bufLen.toNat) :
    exec (.decLeg rd rs1 rs2 rs3 off) s = .next (writeRecord s rd rs1 rs2 rs3
      (sliceRecord n m (s.buf.readBytes off.toNat s.bufLen.toNat)) (recordLen 0 n m)) :=
  exec_of_check rfl hlens ((bind_ok ..).2 ⟨_, (window_ok ..).2 ⟨hin, rfl⟩,
    if_neg (by rwa [Memory.length_readBytes, Nat.not_lt])⟩)

theorem exec_decCur_none (hin : off.toNat + s.bufLen.toNat ≤ 256)
    (hc : checkRecord (s.buf.readBytes off.toNat s.bufLen.toNat) = none) :
    exec (.decCur rd rs1 rs2 rs3 off) s = .next (notOk s) :=
  exec_of_check rfl ((window_ok ..).2 ⟨hin, rfl⟩) (by rw [hc]; rfl)

theorem exec_decCur_some {ea gw : Family} (hin : off.toNat + s.bufLen.toNat ≤ 256)
    (hc : checkRecord (s.buf.readBytes off.toNat s.bufLen.toNat) = some (ea, gw)) :
    exec (.decCur rd rs1 rs2 rs3 off) s = .next (writeRecord s rd rs1 rs2 rs3
      (sliceRecord ea gw ((s.buf.readBytes off.toNat s.bufLen.toNat).drop 4)) (recordLen 4 ea gw)) :=
  exec_of_check rfl ((window_ok ..).2 ⟨hin, rfl⟩) (by rw [hc]; rfl)

end Decode

/-- Settles O59: the outcomes above; `DEC.LEG` has its lengths from `LENCFG`, `DEC.CUR` from the header that checks. -/
theorem decoders : Obligations.Decoders := by
  intro s rd rs1 rs2 rs3 off W n m
  have hlength : W.length = s.bufLen.toNat := Memory.length_readBytes ..
  have hrange (h : 256 < off.toNat + s.bufLen.toNat) : window s off = .error .bufRange :=
    (window_error ..).2 ⟨rfl, h⟩
  refine ⟨fun h => raises_of_check rfl (lens_badLength h), fun hn hm => ?leg,
    fun h => raises_of_check rfl (hrange h), fun hin => ⟨fun hW => ?none, fun n m hW => ?cur⟩⟩
  case leg =>
    obtain ⟨ea, hea⟩ := exists_family_len hn
    obtain ⟨gw, hgw⟩ := exists_family_len hm
    have hlens : lens s = .ok (ea, gw) := (lens_ok ..).2 ⟨hea.symm, hgw.symm⟩
    have hlen : recordLen 0 ea gw = 2 * n + m + 16 := by rw [recordLen_eq, hea, hgw, Nat.zero_add]
    refine ⟨fun h => raises_of_check_ok rfl hlens ((bind_error ..).2 (.inl (hrange h))), fun hin hshort => ?_,
      fun hin hfit => ?_⟩
    · exact .intro _ (exec_decLeg_short rd rs1 rs2 rs3 hlens hin (hlen ▸ hshort)) ⟨rfl, rfl⟩
        (onlyChanges_setOK_setRLen s _ _)
    · refine .intro _ (exec_decLeg_record rd rs1 rs2 rs3 hlens hin (hlen ▸ hfit)) ⟨rfl, ?_, ?_⟩
        (onlyChanges_writeRecord ..)
      · rw [hlen]
        exact toNat_setRLen_rlen _ (by omega)
      · rw [← hea, ← hgw]
        exact holdsRecord_writeRecord s rd rs1 rs2 rs3 (h := 0) _ (by rw [hea, hgw, hlength]; omega)
  case none =>
    exact .intro _ (exec_decCur_none rd rs1 rs2 rs3 hin (checkRecord_eq_none W hW)) ⟨rfl, rfl⟩
      (onlyChanges_setOK_setRLen s _ _)
  case cur =>
    obtain ⟨ea, gw, hc, rfl, rfl⟩ := (recordChecks_iff W n m).1 hW
    obtain ⟨_, _, _, hfit⟩ := hW
    exact .intro _ (exec_decCur_some rd rs1 rs2 rs3 hin hc)
      ⟨rfl, toNat_setRLen_rlen _ (by rw [recordLen_eq]; omega), holdsRecord_writeRecord s rd rs1 rs2 rs3 _ hfit⟩
      (onlyChanges_writeRecord ..)

/-! ### A record encoded and decoded again -/

/-- Bytes read in one go are those read in two. -/
theorem Memory.readBytes_add (m : Memory) (i n k : Nat) :
    m.readBytes i (n + k) = m.readBytes i n ++ m.readBytes (i + n) k := by
  induction n generalizing i with
  | zero => simp [Memory.readBytes]
  | succ n ih => rw [Nat.succ_add, Memory.readBytes, Memory.readBytes, ih, List.cons_append, Nat.succ_add_eq_add_succ]

/-- A window that holds the bytes just written begins with them. -/
theorem Memory.readBytes_writeBytes_of_le (m : Memory) (i n : Nat) (B : List Byte) (hw : m.wf)
    (hfit : i + B.length ≤ 256) (hn : B.length ≤ n) :
    ∃ rest, (m.writeBytes i B).readBytes i n = B ++ rest := by
  obtain ⟨k, rfl⟩ := Nat.exists_eq_add_of_le hn
  exact ⟨_, by rw [Memory.readBytes_add, m.readBytes_writeBytes i B hw hfit]⟩

theorem ipOfBytes_bytes (v : IPAddr) : ipOfBytes v.family v.bytes = v :=
  IPAddr.eq_of_bytes (bytes_ipOfBytes v.family v.length_bytes)

/-- Slicing the body of a record, whatever follows it, gives back its values. -/
theorem sliceRecord_recordBody {ea ip : IPAddr} (gw : IPAddr) (ref : U128) (rest : List Byte) (h : ea.len = ip.len) :
    sliceRecord ea.family gw.family (recordBody ea ip gw ref ++ rest) =
      { ea := ea, ip := ip, gw := gw, ref := ref } := by
  have hfamily : ea.family = ip.family := (IPAddr.family_eq_iff ea ip).2 h
  have hea : (ea.bytes ++ ip.bytes).length = 2 * ea.len := by simp [← h, Nat.two_mul]
  have hgw : (ea.bytes ++ ip.bytes ++ gw.bytes).length = 2 * ea.len + gw.len := by
    rw [List.length_append, hea, gw.length_bytes]
  have href : BitVec.ofNat 128 (fromBE (beBytes 16 ref.toNat)) = ref := by
    rw [fromBE_beBytes, ofNat_toNat_mod_pow]
  simp only [sliceRecord, recordBody, IPAddr.family_len, Config.refLen, RecordValues.mk.injEq]
  refine ⟨?ea, ?ip, ?gw, ?ref⟩
  case ea =>
    rw [List.append_assoc, List.append_assoc, List.append_assoc, List.take_left' ea.length_bytes, ipOfBytes_bytes]
  case ip =>
    rw [List.append_assoc, List.append_assoc, List.append_assoc, List.drop_left' ea.length_bytes,
      List.take_left' (ip.length_bytes.trans h.symm), hfamily, ipOfBytes_bytes]
  case gw =>
    rw [List.append_assoc, List.append_assoc, List.drop_left' hea, List.take_left' gw.length_bytes, ipOfBytes_bytes]
  case ref => rw [List.append_assoc, List.drop_left' hgw, List.take_left' (length_beBytes ..), href]

theorem length_recordHeader (ea gw : Family) : (recordHeader ea gw).length = 4 := rfl

/-- The header of a record checks in every window that holds the record. -/
theorem checkRecord_header {ea gw : Family} {W : List Byte} {tail : List Byte} (hW : W = recordHeader ea gw ++ tail)
    (hfit : 4 + 2 * ea.len + gw.len + 16 ≤ W.length) : checkRecord W = some (ea, gw) := by
  refine (checkRecord_eq_some W ea gw).2 ⟨?_, ?_, ?_, hfit⟩
  · rcases ea.len_eq with h | h <;> rcases gw.len_eq with h' | h' <;> omega
  · subst hW
    cases ea <;> cases gw <;> rfl
  · subst hW
    cases ea <;> cases gw <;> rfl

/-- Three different registers and a fourth take back the record they name. -/
theorem readBack_writeRecord (s : State) (xe : XReg) {at1 at2 at3 : AReg} (h12 : at1 ≠ at2) (h13 : at1 ≠ at3)
    (h23 : at2 ≠ at3) (ea ip gw : IPAddr) (ref : U128) {L : Nat} (hL : L ≤ 256) :
    let t := writeRecord s xe at1 at2 at3 { ea := ea, ip := ip, gw := gw, ref := ref } L
    t.ok = true ∧ t.rlen.toNat = L ∧ readA t at1 = .addr ea ∧ readA t at2 = .addr ip ∧ readA t at3 = .addr gw ∧
      readX t xe = ref := by
  refine ⟨rfl, toNat_setRLen_rlen _ hL, ?_, ?_, ?_, ?_⟩
  · rw [readA_writeRecord, if_neg h13.symm, if_neg h12.symm, if_pos rfl]
  · rw [readA_writeRecord, if_neg h23.symm, if_pos rfl]
  · rw [readA_writeRecord, if_pos rfl]
  · rw [readX_writeRecord, if_pos rfl]

/-- `LENCFG` with two lengths of addresses gives their families (45_addrrec_codec.md R312). -/
theorem lens_setLenCfg (s : State) (ea gw : IPAddr) :
    lens (setLenCfg s (BitVec.ofNat 16 (gw.len * 256 + ea.len))) = .ok (ea.family, gw.family) := by
  have hea := ea.len_le
  have hgw := gw.len_le
  rw [lens_ok, setLenCfg_lenCfg, IPAddr.family_len, IPAddr.family_len]
  simp only [BitVec.extractLsb'_toNat, BitVec.toNat_ofNat, Nat.shiftRight_eq_div_pow]
  omega

section Decoded

variable {s : State} {off : Imm8} {ea ip : IPAddr} {gw : IPAddr} {ref : U128} {rest : List Byte} (xe : XReg)
  (at1 at2 at3 : AReg) (hlen : ea.len = ip.len) (hin : off.toNat + s.bufLen.toNat ≤ 256)
include hlen hin

/-- `DEC.CUR` of a window that begins with a record takes back its values. -/
theorem exec_decCur_recordBody (hW : s.buf.readBytes off.toNat s.bufLen.toNat =
      recordHeader ea.family gw.family ++ (recordBody ea ip gw ref ++ rest)) :
    exec (.decCur xe at1 at2 at3 off) s = .next (writeRecord s xe at1 at2 at3
      { ea := ea, ip := ip, gw := gw, ref := ref } (4 + 2 * ea.len + gw.len + 16)) := by
  have hfit : 4 + 2 * ea.family.len + gw.family.len + 16 ≤
      (s.buf.readBytes off.toNat s.bufLen.toNat).length := by
    rw [hW, IPAddr.family_len, IPAddr.family_len, List.length_append, List.length_append, recordBody_length, ← hlen,
      length_recordHeader]
    omega
  have hdrop : (s.buf.readBytes off.toNat s.bufLen.toNat).drop 4 = recordBody ea ip gw ref ++ rest := by
    rw [hW, List.drop_left' (length_recordHeader ..)]
  rw [exec_decCur_some xe at1 at2 at3 hin (checkRecord_header hW hfit), hdrop, sliceRecord_recordBody gw ref rest hlen]
  rfl

/-- `DEC.LEG` of a window that begins with a record takes back its values, where `LENCFG` holds its lengths. -/
theorem exec_decLeg_recordBody (hlens : lens s = .ok (ea.family, gw.family))
    (hW : s.buf.readBytes off.toNat s.bufLen.toNat = recordBody ea ip gw ref ++ rest) :
    exec (.decLeg xe at1 at2 at3 off) s = .next (writeRecord s xe at1 at2 at3
      { ea := ea, ip := ip, gw := gw, ref := ref } (2 * ea.len + gw.len + 16)) := by
  have hsize : recordLen 0 ea.family gw.family = 2 * ea.len + gw.len + 16 := by
    rw [recordLen_eq, Nat.zero_add, IPAddr.family_len, IPAddr.family_len]
  have hfit : recordLen 0 ea.family gw.family ≤ s.bufLen.toNat := by
    rw [← Memory.length_readBytes s.buf off.toNat s.bufLen.toNat, hW, hsize, List.length_append, recordBody_length,
      ← hlen]
    omega
  rw [exec_decLeg_record xe at1 at2 at3 hlens hin hfit, hW, sliceRecord_recordBody gw ref rest hlen, hsize]

end Decoded

/-- An encoder that fits leaves `BUF` with the record and `RLEN` with its length. -/
theorem exec_of_encodeRecord {i : Instr} {header : Family → Family → List Byte} {rd : XReg} {rs1 rs2 rs3 : AReg}
    {off : Imm8} {s : State} {ea ip gw : IPAddr} {B : List Byte}
    (he : exec i s = complete i s (encodeRecord header rd rs1 rs2 rs3 off s)) (hea : readA s rs1 = .addr ea)
    (hip : readA s rs2 = .addr ip) (hgw : readA s rs3 = .addr gw) (hlen : ea.len = ip.len)
    (hB : header ea.family gw.family ++ recordBody ea ip gw (readX s rd) = B) (hfit : off.toNat + B.length ≤ 256) :
    exec i s = .next (setRLen (setBuf s (s.buf.writeBytes off.toNat B)) B.length) := by
  subst hB
  rw [he, (encodeRecord_ok ..).2 ⟨ea, ip, gw, hea, hip, hgw, hlen, hfit, rfl⟩, complete_ok]

/-- Settles O60: the window begins with the record written (`readBytes_writeBytes_of_le`); its header, or `LENCFG`,
gives the families, and slicing gives back the values (`sliceRecord_recordBody`). -/
theorem recordRoundTrip : Obligations.RecordRoundTrip := by
  intro s rd xe rs1 rs2 rs3 at1 at2 at3 off ea ip gw B hw hea hip hgw hlen h12 h13 h23 hB back
  have hB256 : B.toNat ≤ 256 := by omega
  have hbufLen : (B.setWidth 9).toNat = B.toNat := toNat_setWidth_bufLen hB256
  have hbody : (recordBody ea ip gw (readX s rd)).length = 2 * ea.len + gw.len + 16 := by
    rw [recordBody_length, ← hlen, ← Nat.two_mul]
  refine ⟨fun hfit => ?cur, fun hfit => ?leg⟩
  case cur =>
    obtain ⟨R, hR⟩ : ∃ R, recordHeader ea.family gw.family ++ recordBody ea ip gw (readX s rd) = R := ⟨_, rfl⟩
    have hlength : R.length = 4 + 2 * ea.len + gw.len + 16 := by
      rw [← hR, List.length_append, length_recordHeader, hbody]
      omega
    have henc := exec_of_encodeRecord (exec_encCur rd rs1 rs2 rs3 off s) hea hip hgw hlen hR (by omega)
    obtain ⟨rest, hrest⟩ := s.buf.readBytes_writeBytes_of_le off.toNat B.toNat R hw (by omega) (by omega)
    have hdec := exec_decCur_recordBody
      (s := setBufLen (setRLen (setBuf s (s.buf.writeBytes off.toNat R)) R.length) (B.setWidth 9)) xe at1 at2 at3 hlen
      (by rwa [setBufLen_bufLen, hbufLen])
      (by rw [setBufLen_bufLen, hbufLen, ← List.append_assoc, hR]; exact hrest)
    exact ⟨_, (execAll_cons_of_next _ _ _ _ henc).trans <|
      (execAll_cons_of_next _ _ _ _ (exec_csrwi_bufLen hB256)).trans (execAll_cons_of_next _ _ _ _ hdec),
      readBack_writeRecord _ xe h12 h13 h23 ea ip gw _ (hfit.trans hB256)⟩
  case leg =>
    obtain ⟨R, hR⟩ : ∃ R, recordBody ea ip gw (readX s rd) = R := ⟨_, rfl⟩
    rw [hR] at hbody
    have henc := exec_of_encodeRecord (exec_encLeg rd rs1 rs2 rs3 off s) hea hip hgw hlen hR (by omega)
    obtain ⟨rest, hrest⟩ := s.buf.readBytes_writeBytes_of_le off.toNat B.toNat R hw (by omega) (by omega)
    have hdec := exec_decLeg_recordBody
      (s := setLenCfg (setBufLen (setRLen (setBuf s (s.buf.writeBytes off.toNat R)) R.length) (B.setWidth 9))
        (BitVec.ofNat 16 (gw.len * 256 + ea.len))) xe at1 at2 at3 hlen
      (by rwa [setLenCfg_bufLen, setBufLen_bufLen, hbufLen]) (lens_setLenCfg _ ea gw)
      (by rw [setLenCfg_bufLen, setBufLen_bufLen, hbufLen, hR]; exact hrest)
    exact ⟨_, (execAll_cons_of_next _ _ _ _ henc).trans <|
      (execAll_cons_of_next _ _ _ _ (exec_csrwi_bufLen hB256)).trans <|
      (execAll_cons_of_next _ _ _ _ rfl).trans (execAll_cons_of_next _ _ _ _ hdec),
      readBack_writeRecord _ xe h12 h13 h23 ea ip gw _ (hfit.trans hB256)⟩

end Sys2Proof.Machine
end
